-- ==== Sys2Proof/Word.lean ====
section
/-! DEFINITION. The engine's number types and its fixed-size buffers (spec/00_scope.md R5, R6): all words are
unsigned bit vectors, and a buffer of `n` like things is a list with its length. -/

namespace Sys2Proof

/-- A byte of a key, IV, input or output buffer. -/
abbrev Byte := BitVec 8

/-- A 16-bit key word or keystream word. -/
abbrev Half := BitVec 16

/-- A 32-bit state, counter or command word. -/
abbrev Word := BitVec 32

/-- `n` values indexed from 0: the eight lanes of `x` and `c`, the bytes of a port or holding register. -/
structure Vec (α : Type) (n : Nat) where
  toList : List α
  length_eq : toList.length = n
deriving DecidableEq, Repr

namespace Vec

variable {α : Type} {n : Nat}

/-- Element `i`; for eight lanes, `i + k : Fin 8` is the spec's `(i + k) % 8`. -/
def get (v : Vec α n) (i : Fin n) : α :=
  v.toList[i.val]'(by rw [v.length_eq]; exact i.isLt)

/-- The buffer whose element `i` is `f i`. -/
def ofFn (f : Fin n → α) : Vec α n := ⟨List.ofFn f, List.length_ofFn⟩

/-- `n` copies of one value. -/
def fill (n : Nat) (a : α) : Vec α n := ⟨List.replicate n a, List.length_replicate⟩

/-- The first `k` elements, in order. -/
def first (v : Vec α n) (k : Nat) : List α := v.toList.take k

end Vec

end Sys2Proof
end

