-- ==== Sys2Proof/Config.lean ====
section
/-! DEFINITION. The sizes that spec/00_scope.md R5 fixes. Nothing is left to an implementation and no value is
free: the one OPEN parameter, `port_map` (92_eei_decisions.md D19), is read by no rule and has no place here. -/

namespace Sys2Proof.Config

/-- The only legal key length, in bytes (R5). -/
abbrev keyBytes : Nat := 16

/-- The only legal IV length, in bytes, when an IV is present (R5). -/
abbrev ivBytes : Nat := 8

/-- Bytes of one keystream block, and so of `DIN` and `DOUT` (R5). -/
abbrev blockBytes : Nat := 16

/-- Lanes of `x` and of `c` (R5). -/
abbrev lanes : Nat := 8

end Sys2Proof.Config
end

