-- ==== Sys2Proof/Syntax.lean ====
section
/-! DEFINITION. The engine's instructions: the three host commands of spec/30_encoding.md R40 and the six rows of
its micro-operation table R42 (one per busy phase), as spec/opcode_table.json lists them; and the two formats
their encodings take. -/

namespace Sys2Proof

/-- One constructor per row of spec/opcode_table.json. The byte operands (`KEYIN`, `IVIN`, `DIN`) are on the
data ports, not in the command word (R39). -/
inductive Instr where
  /-- CONSTRUCT, R47: the fields `IVP` (16), `IVLEN` (15:8), `KLEN` (7:0). -/
  | construct (ivp : Bool) (ivlen klen : Byte)
  /-- START, R48. -/
  | start
  /-- BLOCK, R67: the field `N` (4:0). -/
  | block (n : BitVec 5)
  /-- EXPAND, R49: phase code 2. -/
  | expand
  /-- ITER.WARM, R50: phase code 3. -/
  | iterWarm
  /-- REMIX, R51: phase code 4. -/
  | remix
  /-- IVMIX, R52: phase code 5. -/
  | ivmix
  /-- ITER.IVWARM, R53: phase code 6. -/
  | iterIvwarm
  /-- ITER.BLOCK, R68: phase code 8. -/
  | iterBlock
deriving DecidableEq, Repr

/-- An encoded instruction: a command word on `CMD` (format CMD32, R38) or the 4-bit phase code under which a
micro-operation runs (format UOP4, R42). -/
inductive Code where
  | cmd32 (w : Word)
  | uop4 (p : BitVec 4)
deriving DecidableEq, Repr

end Sys2Proof
end

