-- ==== Sys2Proof/WellFormed.lean ====
section
/-! DEFINITION. Which instruction terms are legal encodings (spec/30_encoding.md R38, R41). Every field of
CONSTRUCT takes every value of its width; only `N` of BLOCK has illegal values. -/

namespace Sys2Proof

/-- R41 (e): `N` of a BLOCK is 1 to 16; 0 and 17 to 31 are reserved. All other terms are legal encodings (a
CONSTRUCT with a wrong length is a legal encoding whose effect is InvalidKeyLength or InvalidIVLength). -/
def Instr.wellFormed : Instr → Bool
  | .construct _ _ _ => true
  | .start => true
  | .block n => decide (1 ≤ n.toNat) && decide (n.toNat ≤ 16)
  | .expand => true
  | .iterWarm => true
  | .remix => true
  | .ivmix => true
  | .iterIvwarm => true
  | .iterBlock => true

end Sys2Proof
end

