-- ==== Sys2Proof/Decode.lean ====
section
/-! DEFINITION. Decoding (spec/30_encoding.md R38 to R42): the command rows of R40 by mask and match, the reserved
words of R41 by name, the micro-operation a phase code selects (R42); and the encoder. -/

namespace Sys2Proof

/-- Why a code stands for no instruction. In a non-busy phase each of the first four is a ProtocolError (R41);
the last two are never asked for by a step that would run a micro-operation (R16). -/
inductive Reject where
  /-- R41 (a): `OP` is 0x0 or 0x4 to 0xF. -/
  | reservedOp
  /-- R41 (b): a CONSTRUCT word with a bit of 27:17 set. -/
  | z1NotZero
  /-- R41 (c): a START word with a bit of 27:0 set. -/
  | startNotZero
  /-- R41 (d): a BLOCK word with a bit of 27:5 set. -/
  | blockNotZero
  /-- R16: the code of a non-busy phase (0, 1, 7), which selects no micro-operation. -/
  | noMicroOp
  /-- R16: phase codes 9 to 15, which no rule writes. -/
  | unusedPhaseCode
deriving DecidableEq, Repr

/-- A row of the opcode map R40: a word matches when `(word & mask) = match`. -/
structure CmdRow where
  pattern : Word
  mask : Word
deriving DecidableEq, Repr

/-- `(word & mask) = match`, R40. -/
def CmdRow.holds (r : CmdRow) (w : Word) : Bool := decide (w &&& r.mask = r.pattern)

/-- The CONSTRUCT row of R40. -/
def constructRow : CmdRow := ⟨0x10000000#32, 0xFFFE0000#32⟩

/-- The START row of R40. -/
def startRow : CmdRow := ⟨0x20000000#32, 0xFFFFFFFF#32⟩

/-- The BLOCK row of R40. -/
def blockRow : CmdRow := ⟨0x30000000#32, 0xFFFFFFE0#32⟩

/-- `OP`, bits 31:28 (R38). -/
def opField (w : Word) : BitVec 4 := w.extractLsb' 28 4

/-- `IVP`, bit 16 (R38). -/
def ivpField (w : Word) : Bool := w.getLsbD 16

/-- `IVLEN`, bits 15:8 (R38). -/
def ivlenField (w : Word) : Byte := w.extractLsb' 8 8

/-- `KLEN`, bits 7:0 (R38). -/
def klenField (w : Word) : Byte := w.extractLsb' 0 8

/-- `N`, bits 4:0 (R38). -/
def nField (w : Word) : BitVec 5 := w.extractLsb' 0 5

/-- Which case of R41 (a) to (d) a word that matches no row falls under. -/
def rejectReason (w : Word) : Reject :=
  if opField w = 1#4 then .z1NotZero
  else if opField w = 2#4 then .startNotZero
  else if opField w = 3#4 then .blockNotZero
  else .reservedOp

/-- R40: a word is decoded by the first row it matches; a word that matches no row is reserved (R41). A BLOCK
word decodes with any `N`; the meaning of BLOCK faults an illegal one (R46, R67; assumption log 8). -/
def decodeCommand (w : Word) : Except Reject Instr :=
  if constructRow.holds w then .ok (.construct (ivpField w) (ivlenField w) (klenField w))
  else if startRow.holds w then .ok .start
  else if blockRow.holds w then .ok (.block (nField w))
  else .error (rejectReason w)

/-- R42: the micro-operation that runs under a phase code. -/
def decodeMicroOp (p : BitVec 4) : Except Reject Instr :=
  match p.toNat with
  | 2 => .ok .expand
  | 3 => .ok .iterWarm
  | 4 => .ok .remix
  | 5 => .ok .ivmix
  | 6 => .ok .iterIvwarm
  | 8 => .ok .iterBlock
  | 0 | 1 | 7 => .error .noMicroOp
  | _ => .error .unusedPhaseCode

/-- The decoder: total on every code of either format. -/
def decode : Code → Except Reject Instr
  | .cmd32 w => decodeCommand w
  | .uop4 p => decodeMicroOp p

/-- The instruction a decoder answer holds, if any. -/
def decoded : Except Reject Instr → Option Instr
  | .ok i => some i
  | .error _ => none

/-- The instruction of an opcode-table word: a row of at most 8 bits is a 4-bit phase code (UOP4) with nothing
above it, a wider one a command word (CMD32). -/
def decodeTableWord (nbits w : Nat) : Option Instr :=
  if nbits ≤ 8 then
    if w < 16 then decoded (decodeMicroOp (BitVec.ofNat 4 w)) else none
  else if w < 2 ^ 32 then decoded (decodeCommand (BitVec.ofNat 32 w)) else none

/-- The encoder, from the bit patterns of R40 (bit 31 first) and the phase codes of R42. -/
def encode : Instr → Code
  | .construct ivp ivlen klen => .cmd32 (0b0001#4 ++ 0#11 ++ BitVec.ofBool ivp ++ ivlen ++ klen)
  | .start => .cmd32 (0b0010#4 ++ 0#28)
  | .block n => .cmd32 (0b0011#4 ++ 0#23 ++ n)
  | .expand => .uop4 0b0010#4
  | .iterWarm => .uop4 0b0011#4
  | .remix => .uop4 0b0100#4
  | .ivmix => .uop4 0b0101#4
  | .iterIvwarm => .uop4 0b0110#4
  | .iterBlock => .uop4 0b1000#4

end Sys2Proof
end

