-- ==== Sys2Proof/Machine/State.lean ====
section
/-! DEFINITION. The state of the engine (spec/10_state.md R10 to R20, R25) and, beside it, the host's side of the
interface: what stands on the input ports now (R22) and what the host will drive there next. Also the reset state
(R84) and the two reason types of a stop. -/

namespace Sys2Proof.Machine

/-- The phase register's nine values (R16). Codes 9 to 15 are unreachable and have no value here
(93_implementation_defined.md I7; assumption log 6). -/
inductive Phase where
  /-- code 0: no valid key is held. -/
  | unkeyed
  /-- code 1: a key is held, no stream is open. -/
  | keyed
  /-- code 2: key expansion pending. -/
  | sExpand
  /-- code 3: first warm-up. -/
  | sWarm
  /-- code 4: counter re-mix pending. -/
  | sRemix
  /-- code 5: IV mixing pending. -/
  | sIvmix
  /-- code 6: second warm-up. -/
  | sIvwarm
  /-- code 7: a stream is open. -/
  | stream
  /-- code 8: a block's state advance is pending. -/
  | bIter
deriving DecidableEq, Repr

/-- What the host asks for at this instant (R8): nothing, a reset (`RST` asserted), or one command word on `CMD`. -/
inductive Request where
  | none
  | reset
  | command (w : Word)
deriving DecidableEq, Repr

/-- The input ports at one instant (R22): the request and the bytes standing on the three data ports. -/
structure Ports where
  req : Request
  keyin : Vec Byte 16
  ivin : Vec Byte 8
  din : Vec Byte 16
deriving DecidableEq, Repr

/-- Everything spec/10_state.md R25 lists, under its own names, and last the host's side: `ports` and `script`
are the MODEL's own fields, not the engine's (assumption log 1). -/
structure State where
  /-- State words `x[0..7]`, R10. -/
  x : Vec Word 8
  /-- Counter words `c[0..7]`, R11. -/
  c : Vec Word 8
  /-- Carry bit `b`, R12. -/
  b : Bool
  /-- Key register `K[0..15]`, R14. -/
  K : Vec Byte 16
  /-- IV register `IV[0..7]`, R15. -/
  IV : Vec Byte 8
  /-- IV presence bit, R15. -/
  ivp : Bool
  /-- Phase register, R16. -/
  phase : Phase
  /-- Warm-up counter, R17. -/
  cnt : BitVec 2
  /-- Last-block flag, R18. -/
  last : Bool
  /-- InvalidKeyLength flag, R19. -/
  ekey : Bool
  /-- InvalidIVLength flag, R19. -/
  eiv : Bool
  /-- ProtocolError flag, R19. -/
  eproto : Bool
  /-- Output register `dout[0..15]`, R20. -/
  dout : Vec Byte 16
  /-- Count of output bytes, 0 to 16, R20. -/
  doutn : BitVec 5
  /-- What stands on the input ports now, R22. -/
  ports : Ports
  /-- What the host will drive onto the ports, one entry after another. -/
  script : List Ports
deriving DecidableEq, Repr

/-- Nothing stops this machine with a fault: the three faults of 60_exceptions.md R73 are recorded in flags and
the engine goes on (R78), and no rule describes a stop. So there is no reason to name. -/
inductive Fault where
deriving DecidableEq, Repr

/-- Why the model gives an instruction no meaning. Only a rejected arm of `exec` raises it, and none is left;
raising it is safe (the model stops where the hardware goes on). -/
inductive Refusal where
  /-- Raised by an arm of `exec` whose instruction has no meaning yet; safe. -/
  | notModelled (mnemonic : String)
deriving DecidableEq, Repr

/-- The input ports with nothing asked for and zero on the data ports (assumption log 5). -/
def Ports.quiet : Ports := ⟨.none, Vec.fill 16 0#8, Vec.fill 8 0#8, Vec.fill 16 0#8⟩

/-- The machine right after reset: every register as R84 and R25 give it, and a host that asks for nothing. -/
def State.reset : State where
  x := Vec.fill 8 0#32
  c := Vec.fill 8 0#32
  b := false
  K := Vec.fill 16 0#8
  IV := Vec.fill 8 0#8
  ivp := false
  phase := .unkeyed
  cnt := 0#2
  last := false
  ekey := false
  eiv := false
  eproto := false
  dout := Vec.fill 16 0#8
  doutn := 0#5
  ports := Ports.quiet
  script := []

end Sys2Proof.Machine
end

