-- ==== Sys2Proof/Machine/Operands.lean ====
section
/-! DEFINITION. Operands: the arithmetic primitives of spec/00_scope.md R7, the byte-to-word views of the key and
IV registers (20_memory.md R28, R29), and the data-port bytes a command takes (30_encoding.md R39). -/

namespace Sys2Proof.Machine

/-- `add32`: the 32-bit sum with wrap-around (R7). -/
def add32 (a b : Word) : Word := a + b

/-- `rotl(v, n)` for `n` in 8, 16: `trunc32(v << n) | (v >> (32 - n))` (R7). -/
def rotl (v : Word) (n : Nat) : Word := (v <<< n) ||| (v >>> (32 - n))

/-- `trunc16` (R7). -/
def trunc16 (v : Word) : Half := v.setWidth 16

/-- `le16(b0, b1)`: byte 0 is the low byte (R7). -/
def le16 (b0 b1 : Byte) : Half := b1 ++ b0

/-- `le32(b0, b1, b2, b3)`: byte 0 is the lowest byte (R7). -/
def le32 (b0 b1 b2 b3 : Byte) : Word := b3 ++ b2 ++ b1 ++ b0

/-- `(hi << 16) | lo`, written `hi:lo` in R49. -/
def joinHalves (hi lo : Half) : Word := (hi.setWidth 32 <<< 16) ||| lo.setWidth 32

/-- The key's word view: `k[i] = le16(K[2i], K[2i+1])` (R14, R28). -/
def keyWord (K : Vec Byte 16) (i : Fin 8) : Half :=
  le16 (K.get ⟨2 * i.val, by have := i.isLt; omega⟩) (K.get ⟨2 * i.val + 1, by have := i.isLt; omega⟩)

/-- `iv0` of the IV's word view (R15, R29). -/
def iv0 (IV : Vec Byte 8) : Word := le32 (IV.get 0) (IV.get 1) (IV.get 2) (IV.get 3)

/-- `iv1` of the IV's word view (R15, R29). -/
def iv1 (IV : Vec Byte 8) : Word := le32 (IV.get 4) (IV.get 5) (IV.get 6) (IV.get 7)

/-- The four IV masks `m0` to `m3`, each for two lanes (R52): `trunc32` drops bits 47:32 of the left shifts. -/
def ivMask (IV : Vec Byte 8) (i : Fin 8) : Word :=
  match i.val % 4 with
  | 0 => iv0 IV
  | 1 => (iv1 IV >>> 16) ||| (iv0 IV <<< 16)
  | 2 => iv1 IV
  | _ => (iv0 IV >>> 16) ||| (iv1 IV <<< 16)

/-- The key bytes a CONSTRUCT samples (R22, R39). -/
def State.keyin (s : State) : Vec Byte 16 := s.ports.keyin

/-- The IV bytes a CONSTRUCT with `IVP = 1` samples (R22, R39). -/
def State.ivin (s : State) : Vec Byte 8 := s.ports.ivin

/-- The input bytes a BLOCK samples (R22, R39). -/
def State.din (s : State) : Vec Byte 16 := s.ports.din

end Sys2Proof.Machine
end

