-- ==== Sys2Proof/Machine/Flags.lean ====
section
/-! DEFINITION. What is computed from the phase and the flag bits: the phase codes and which phases are busy
(spec/10_state.md R16), the `STATUS` port (R21), the carry out of a counter lane (42_counter.md R62), the
last-block flag (R18) and the checks of CONSTRUCT and BLOCK (40_setup.md R47, 44_transform.md R67). -/

namespace Sys2Proof.Machine

/-- The 4-bit code of a phase (R16). -/
def Phase.code : Phase → BitVec 4
  | .unkeyed => 0#4
  | .keyed => 1#4
  | .sExpand => 2#4
  | .sWarm => 3#4
  | .sRemix => 4#4
  | .sIvmix => 5#4
  | .sIvwarm => 6#4
  | .stream => 7#4
  | .bIter => 8#4

/-- The phase with a given code; none for 9 to 15 (R16). -/
def Phase.ofCode (p : BitVec 4) : Option Phase :=
  match p.toNat with
  | 0 => some .unkeyed
  | 1 => some .keyed
  | 2 => some .sExpand
  | 3 => some .sWarm
  | 4 => some .sRemix
  | 5 => some .sIvmix
  | 6 => some .sIvwarm
  | 7 => some .stream
  | 8 => some .bIter
  | _ => none

/-- The "busy" column of R16. -/
def Phase.busy : Phase → Bool
  | .unkeyed => false
  | .keyed => false
  | .sExpand => true
  | .sWarm => true
  | .sRemix => true
  | .sIvmix => true
  | .sIvwarm => true
  | .stream => false
  | .bIter => true

/-- The `STATUS` port, bit 7 first: 0, `EPROTO`, `EIV`, `EKEY`, `IVP`, `STRM`, `KEYED`, `BUSY` (R21). -/
def State.status (s : State) : Byte :=
  0#1 ++ BitVec.ofBool s.eproto ++ BitVec.ofBool s.eiv ++ BitVec.ofBool s.ekey ++ BitVec.ofBool s.ivp ++
    BitVec.ofBool (decide (s.phase = .stream)) ++ BitVec.ofBool (decide (s.phase ≠ .unkeyed)) ++
    BitVec.ofBool s.phase.busy

/-- The carry out of a lane: bit 32 of its 33-bit sum, 1 exactly when the sum is `2^32` or more (R62). -/
def carryOut (sum : BitVec 33) : Bool := sum.getLsbD 32

/-- R47's first check fails: InvalidKeyLength. -/
def badKeyLength (klen : Byte) : Bool := decide (klen.toNat ≠ Config.keyBytes)

/-- R47's second check fails: InvalidIVLength; an absent IV has no length to check (R75). -/
def badIvLength (ivp : Bool) (ivlen : Byte) : Bool := ivp && decide (ivlen.toNat ≠ Config.ivBytes)

/-- The legal byte counts of a BLOCK, 1 to 16 (R41 (e)). -/
def legalCount (n : BitVec 5) : Bool := decide (1 ≤ n.toNat) && decide (n.toNat ≤ Config.blockBytes)

/-- `last`: the block is short (R18). -/
def isShort (n : BitVec 5) : Bool := decide (n.toNat < Config.blockBytes)

end Sys2Proof.Machine
end

