-- ==== Sys2Proof/Machine/Ops.lean ====
section
/-! DEFINITION. The named operations over State that the meanings share: writing the cipher state, the output
register and the phase, TAKING A FAULT (spec/60_exceptions.md R78) and clearing the flags again (R79), reset
(70_reset_and_hazards.md R84), accepting a command only in a non-busy phase (30_encoding.md R46), and the host's
move onto its next ports (R88 (a); assumption log 1). -/

namespace Sys2Proof.Machine

/-- The triple (`x`, `c`, `b`) that RSC calls CipherState (spec/00_scope.md, glossary). -/
structure CipherState where
  x : Vec Word 8
  c : Vec Word 8
  b : Bool
deriving DecidableEq, Repr

/-- The cipher state the engine holds. -/
def State.cipher (s : State) : CipherState := ⟨s.x, s.c, s.b⟩

/-- Write `x`, `c` and `b` in one atomic step (R13 (c)). -/
def State.setCipher (s : State) (k : CipherState) : State := { s with x := k.x, c := k.c, b := k.b }

/-- Write the phase register. -/
def State.setPhase (s : State) (p : Phase) : State := { s with phase := p }

/-- Write the warm-up counter. -/
def State.setCnt (s : State) (n : BitVec 2) : State := { s with cnt := n }

/-- Write the output register and its count (R20). -/
def State.setOutput (s : State) (d : Vec Byte 16) (n : BitVec 5) : State := { s with dout := d, doutn := n }

/-- `dout[j] <- 0` for all `j`, `doutn <- 0` (R20). -/
def State.clearOutput (s : State) : State := s.setOutput (Vec.fill 16 0#8) 0#5

/-- Latch a key and its IV presence, and the IV when present (R47). -/
def State.latch (s : State) (key : Vec Byte 16) (ivp : Bool) (iv : Vec Byte 8) : State :=
  { s with K := key, ivp := ivp, IV := if ivp then iv else s.IV }

/-- The last-block flag is written (R18). -/
def State.setLast (s : State) (f : Bool) : State := { s with last := f }

/-- The three faults of R73. -/
inductive Cause where
  | invalidKeyLength
  | invalidIVLength
  | protocolError
deriving DecidableEq, Repr

/-- The cause codes of R73. -/
def Cause.code : Cause → Nat
  | .invalidKeyLength => 1
  | .invalidIVLength => 2
  | .protocolError => 3

/-- TAKING A FAULT, `raise <Fault>` (R78): its flag is set; the two length faults also go to `UNKEYED`. Nothing is
saved and control goes nowhere: the engine is ready for the next command. -/
def State.raise (s : State) : Cause → State
  | .invalidKeyLength => { s with ekey := true, phase := .unkeyed }
  | .invalidIVLength => { s with eiv := true, phase := .unkeyed }
  | .protocolError => { s with eproto := true }

/-- There is no return from a fault; the start of every CONSTRUCT clears the three flags (R19, R79). -/
def State.clearFaults (s : State) : State := { s with ekey := false, eiv := false, eproto := false }

/-- Reset (R84): every register of the engine to its reset value; the host's side is not the engine's to reset. -/
def State.resetEngine (s : State) : State := { State.reset with ports := s.ports, script := s.script }

/-- The state a command's meaning answers with: in a busy phase no command is taken, so nothing happens; in a
non-busy phase the command has its effect (R46). -/
def accept (effect : State → State) (s : State) : Host.Outcome State Fault Refusal :=
  .next (if s.phase.busy then s else effect s)

/-- Change the state of a next-state answer; a stop stays as it is. -/
def andThen (o : Host.Outcome State Fault Refusal) (f : State → State) : Host.Outcome State Fault Refusal :=
  match o with
  | .next s => .next (f s)
  | .fault r => .fault r
  | .refused r => .refused r

/-- A command presented in a busy phase is held on the ports (R46, R88 (a)). -/
def State.holdsCommand (s : State) : Bool :=
  match s.ports.req with
  | .command _ => s.phase.busy
  | .none => false
  | .reset => false

/-- The host drives its next ports; with none left it asks for nothing, the data ports keeping their bytes. -/
def State.hostNext (s : State) : State :=
  match s.script with
  | [] => { s with ports := { s.ports with req := .none } }
  | p :: rest => { s with ports := p, script := rest }

/-- The host's move after the engine's: it holds a command that was not taken, else it goes on. -/
def State.hostMove (held : Bool) (s : State) : State := if held then s else s.hostNext

end Sys2Proof.Machine
end

