-- ==== Sys2Proof/Machine/Iteration.lean ====
section
/-! DEFINITION. One state iteration ITER (spec/41_iteration.md R56 to R59) and its second half, the counter update
(42_counter.md R61, R62). ITER is the same function in all three phases that run it (30_encoding.md R42). -/

namespace Sys2Proof.Machine

/-- The constants `A[0..7]` (R61). -/
def counterConstants : Vec Word 8 :=
  ⟨[0x4D34D34D#32, 0xD34D34D3#32, 0x34D34D34#32, 0x4D34D34D#32,
    0xD34D34D3#32, 0x34D34D34#32, 0x4D34D34D#32, 0xD34D34D3#32], rfl⟩

/-- `G(u)`: the low word of the exact 64-bit square XOR its high word (R56). -/
def gFun (u : Word) : Word :=
  let p : BitVec 64 := u.setWidth 64 * u.setWidth 64
  (p ^^^ (p >>> 32)).setWidth 32

/-- `g[i] = G(add32(x[i], c[i]))`, from the values before this ITER (R57). -/
def gVector (k : CipherState) : Vec Word 8 := Vec.ofFn fun i => gFun (add32 (k.x.get i) (k.c.get i))

/-- The new state words (R58): even lanes rotate both neighbours by 16, odd lanes the nearer one by 8. -/
def mix (g : Vec Word 8) : Vec Word 8 :=
  Vec.ofFn fun i =>
    if i.val % 2 = 0 then add32 (add32 (g.get i) (rotl (g.get (i + 7)) 16)) (rotl (g.get (i + 6)) 16)
    else add32 (add32 (g.get i) (rotl (g.get (i + 7)) 8)) (g.get (i + 6))

/-- The exact sum of one lane, `c[i] + A[i] + carry`, in 33 bits (R62, R23). -/
def laneSum (c : Vec Word 8) (i : Fin 8) (carry : Bool) : BitVec 33 :=
  (c.get i).setWidth 33 + (counterConstants.get i).setWidth 33 + (BitVec.ofBool carry).setWidth 33

/-- The carry into lane `i`: the stored bit for lane 0, else the carry out of lane `i - 1` of the same update;
at 8, the carry out of lane 7 (R62). -/
def carryInto (c : Vec Word 8) (b : Bool) : Nat → Bool
  | 0 => b
  | i + 1 => carryOut (laneSum c (Fin.ofNat 8 i) (carryInto c b i))

/-- `CounterUpdate`, the new counters: each lane's sum with its carry, its low 32 bits (R62). -/
def nextCounters (c : Vec Word 8) (b : Bool) : Vec Word 8 :=
  Vec.ofFn fun i => (laneSum c i (carryInto c b i.val)).setWidth 32

/-- `CounterUpdate`, the new stored carry: the carry out of lane 7 (R62). -/
def nextCarry (c : Vec Word 8) (b : Bool) : Bool := carryInto c b 8

/-- `ITER` (R59): the new `x` from the old `x` and `c`, the new `c` and `b` from the old `c` and `b`. -/
def iter (k : CipherState) : CipherState :=
  ⟨mix (gVector k), nextCounters k.c k.b, nextCarry k.c k.b⟩

end Sys2Proof.Machine
end

