-- ==== Sys2Proof/Machine/BlockAdvance.lean ====
section
/-! DEFINITION. The meaning of the block advance, the micro-operation of `B_ITER` (spec/44_transform.md R68). -/

namespace Sys2Proof.Machine

/-- ITER in `B_ITER`, R68: after a short block the stream is over, after a full one it stays open. -/
def execIterBlock (s : State) : Host.Outcome State Fault Refusal :=
  .next ((s.setCipher (iter s.cipher)).setPhase (if s.last then .keyed else .stream))

end Sys2Proof.Machine
end

