-- ==== Sys2Proof/Machine/Extract.lean ====
section
/-! DEFINITION. Keystream extraction (spec/43_extract.md R64, R65) and the XOR of one block (44_transform.md R67).
Extraction reads `x` only and writes nothing (R66). -/

namespace Sys2Proof.Machine

/-- The eight keystream words `s[0..7]`, the low 16 bits of the eight expressions of R64. -/
def streamWords (x : Vec Word 8) : Vec Half 8 :=
  ⟨[trunc16 (x.get 0 ^^^ (x.get 5 >>> 16)), trunc16 ((x.get 0 >>> 16) ^^^ x.get 3),
    trunc16 (x.get 2 ^^^ (x.get 7 >>> 16)), trunc16 ((x.get 2 >>> 16) ^^^ x.get 5),
    trunc16 (x.get 4 ^^^ (x.get 1 >>> 16)), trunc16 ((x.get 4 >>> 16) ^^^ x.get 7),
    trunc16 (x.get 6 ^^^ (x.get 3 >>> 16)), trunc16 ((x.get 6 >>> 16) ^^^ x.get 1)], rfl⟩

/-- The keystream block `ks[0..15]`: `ks[2i]` is the low byte of `s[i]`, `ks[2i+1]` the high one (R65). -/
def keystream (x : Vec Word 8) : Vec Byte 16 :=
  Vec.ofFn fun j =>
    let w := (streamWords x).get ⟨j.val / 2, by have := j.isLt; omega⟩
    if j.val % 2 = 0 then w.setWidth 8 else (w >>> 8).setWidth 8

/-- The output of a block of `n` bytes: input XOR keystream below `n`, zero from `n` on (R67). -/
def blockOutput (din ks : Vec Byte 16) (n : Nat) : Vec Byte 16 :=
  Vec.ofFn fun j => if j.val < n then din.get j ^^^ ks.get j else 0#8

end Sys2Proof.Machine
end

