-- ==== Sys2Proof/Machine/Cipher.lean ====
section
/-! DEFINITION. The pure functions of the cipher: key expansion, re-mix and IV mixing (spec/40_setup.md R49, R51,
R52), the whole setup `Setup` (R54), block cutting (20_memory.md R31) and the whole-buffer `Transform`
(44_transform.md R69). -/

namespace Sys2Proof.Machine

/-- EXPAND's result: key words into `x` and `c` by the parity of the lane, `b = 0` (R49). -/
def expandKey (K : Vec Byte 16) : CipherState where
  x := Vec.ofFn fun i =>
    if i.val % 2 = 0 then joinHalves (keyWord K (i + 1)) (keyWord K i)
    else joinHalves (keyWord K (i + 5)) (keyWord K (i + 4))
  c := Vec.ofFn fun i =>
    if i.val % 2 = 0 then joinHalves (keyWord K (i + 4)) (keyWord K (i + 5))
    else joinHalves (keyWord K i) (keyWord K (i + 1))
  b := false

/-- REMIX's result: `c[i] ^= x[(i+4)%8]` (R51). -/
def remixCounters (k : CipherState) : CipherState :=
  { k with c := Vec.ofFn fun i => k.c.get i ^^^ k.x.get (i + 4) }

/-- IVMIX's result: the IV masks into the counters (R52). -/
def mixIv (IV : Vec Byte 8) (k : CipherState) : CipherState :=
  { k with c := Vec.ofFn fun i => k.c.get i ^^^ ivMask IV i }

/-- Four iterations: one warm-up (R50, R53). -/
def warmUp (k : CipherState) : CipherState := iter (iter (iter (iter k)))

/-- `Setup(K, iv)` (R54). -/
def setup (K : Vec Byte 16) (iv : Option (Vec Byte 8)) : CipherState :=
  let k := remixCounters (warmUp (expandKey K))
  match iv with
  | none => k
  | some v => warmUp (mixIv v k)

/-- The IV a setup uses: the held one when `ivp = 1`, else none (R48). -/
def State.heldIv (s : State) : Option (Vec Byte 8) := if s.ivp then some s.IV else none

/-- Block cutting with fuel: blocks of 16 bytes, the last with what remains (R31). -/
def cutBlocksFuel : Nat → List Byte → List (List Byte)
  | 0, _ => []
  | _ + 1, [] => []
  | fuel + 1, a :: rest =>
    ((a :: rest).take Config.blockBytes) :: cutBlocksFuel fuel ((a :: rest).drop Config.blockBytes)

/-- The blocks of a buffer; an empty buffer has none (R31). -/
def cutBlocks (buf : List Byte) : List (List Byte) := cutBlocksFuel buf.length buf

/-- XOR the available bytes of a block with the keystream block (R69). -/
def xorBlock (blk : List Byte) (ks : Vec Byte 16) : List Byte := List.zipWith (· ^^^ ·) blk ks.toList

/-- The loop of `Transform`: extract, XOR, iterate, block after block (R69). -/
def transformBlocks (k : CipherState) : List (List Byte) → List Byte
  | [] => []
  | blk :: rest => xorBlock blk (keystream k.x) ++ transformBlocks (iter k) rest

/-- `Transform(K, iv, in)` (R69). -/
def transform (K : Vec Byte 16) (iv : Option (Vec Byte 8)) (buf : List Byte) : List Byte :=
  transformBlocks (setup K iv) (cutBlocks buf)

/-- `n` iterations of ITER. -/
def iterate : Nat → CipherState → CipherState
  | 0, k => k
  | n + 1, k => iterate n (iter k)

/-- Byte `p` of the keystream `KS(K, iv)`: byte `p % 16` of the block extracted after `p / 16` iterations (R69). -/
def keystreamByte (K : Vec Byte 16) (iv : Option (Vec Byte 8)) (p : Nat) : Byte :=
  (keystream (iterate (p / 16) (setup K iv)).x).get ⟨p % 16, Nat.mod_lt _ (by decide)⟩

end Sys2Proof.Machine
end

