-- ==== Sys2Proof/Machine/Commands.lean ====
section
/-! DEFINITION. The meanings of the three host commands (spec/40_setup.md R47, R48; 44_transform.md R67). Each is
taken only in a non-busy phase (30_encoding.md R46). -/

namespace Sys2Proof.Machine

/-- What every CONSTRUCT does first: clean flags, clear output (R47). -/
def State.constructStart (s : State) : State := s.clearFaults.clearOutput

/-- The effect of CONSTRUCT: check the claimed lengths, key first; latch the key and, if supplied, the IV (R47). -/
def constructEffect (ivp : Bool) (ivlen klen : Byte) (s : State) : State :=
  if badKeyLength klen then s.constructStart.raise .invalidKeyLength
  else if badIvLength ivp ivlen then s.constructStart.raise .invalidIVLength
  else (s.constructStart.latch s.keyin ivp s.ivin).setPhase .keyed

/-- The effect of START: open a stream (R48); in `UNKEYED` a ProtocolError (R41 (f)). -/
def startEffect (s : State) : State :=
  if s.phase = .keyed ∨ s.phase = .stream then s.clearOutput.setPhase .sExpand else s.raise .protocolError

/-- The effect of BLOCK: extract from the `x` as it stands, XOR onto the first `n` bytes of `DIN` (R67); an illegal
`n` or a phase other than `STREAM` is a ProtocolError (R41 (e), (f)). -/
def blockEffect (n : BitVec 5) (s : State) : State :=
  if s.phase = .stream ∧ legalCount n = true then
    ((s.setOutput (blockOutput s.din (keystream s.x) n.toNat) n).setLast (isShort n)).setPhase .bIter
  else s.raise .protocolError

/-- CONSTRUCT, R47. -/
def execConstruct (ivp : Bool) (ivlen klen : Byte) (s : State) : Host.Outcome State Fault Refusal :=
  accept (constructEffect ivp ivlen klen) s

/-- START, R48. -/
def execStart (s : State) : Host.Outcome State Fault Refusal := accept startEffect s

/-- BLOCK, R67. -/
def execBlock (n : BitVec 5) (s : State) : Host.Outcome State Fault Refusal := accept (blockEffect n) s

end Sys2Proof.Machine
end

