-- ==== Sys2Proof/Machine/Setup.lean ====
section
/-! DEFINITION. The meanings of the five setup micro-operations (spec/40_setup.md R49 to R53). A micro-operation is
selected by the phase register (30_encoding.md R42) and cannot fault (60_exceptions.md R73). -/

namespace Sys2Proof.Machine

/-- One warm-up micro-step: an ITER and its count; after the fourth, `cnt <- 0` and the phase `done` (R50, R53). -/
def State.warmStep (s : State) (done : Phase) : State :=
  let t := s.setCipher (iter s.cipher)
  if s.cnt = 3#2 then (t.setCnt 0#2).setPhase done else t.setCnt (s.cnt + 1#2)

/-- EXPAND, R49. -/
def execExpand (s : State) : Host.Outcome State Fault Refusal :=
  .next (((s.setCipher (expandKey s.K)).setCnt 0#2).setPhase .sWarm)

/-- ITER in `S_WARM`, R50. -/
def execIterWarm (s : State) : Host.Outcome State Fault Refusal := .next (s.warmStep .sRemix)

/-- REMIX, R51. -/
def execRemix (s : State) : Host.Outcome State Fault Refusal :=
  .next ((s.setCipher (remixCounters s.cipher)).setPhase (if s.ivp then .sIvmix else .stream))

/-- IVMIX, R52. -/
def execIvmix (s : State) : Host.Outcome State Fault Refusal :=
  .next (((s.setCipher (mixIv s.IV s.cipher)).setCnt 0#2).setPhase .sIvwarm)

/-- ITER in `S_IVWARM`, R53. -/
def execIterIvwarm (s : State) : Host.Outcome State Fault Refusal := .next (s.warmStep .stream)

end Sys2Proof.Machine
end

