-- ==== Sys2Proof/Machine/Dispatch.lean ====
section
/-! DEFINITION. One arm per instruction. -/

namespace Sys2Proof.Machine

def exec (i : Instr) (s : State) : Host.Outcome State Fault Refusal :=
  match i with
  | .construct ivp ivlen klen => Sys2Proof.Machine.execConstruct ivp ivlen klen s
  | .start => Sys2Proof.Machine.execStart s
  | .block n => Sys2Proof.Machine.execBlock n s
  | .expand => Sys2Proof.Machine.execExpand s
  | .iterWarm => Sys2Proof.Machine.execIterWarm s
  | .remix => Sys2Proof.Machine.execRemix s
  | .ivmix => Sys2Proof.Machine.execIvmix s
  | .iterIvwarm => Sys2Proof.Machine.execIterIvwarm s
  | .iterBlock => Sys2Proof.Machine.execIterBlock s

end Sys2Proof.Machine
end

