-- ==== Sys2Proof/Machine/Select.lean ====
section
/-! DEFINITION. What the engine does next (spec/00_scope.md R8, 30_encoding.md R42, R46): the part of a processor's
fetch, in a machine that fetches nothing (20_memory.md R36). And how a word is put where the next step takes it. -/

namespace Sys2Proof.Machine

/-- The kinds of step (R8). -/
inductive Event where
  /-- `RST` is asserted (R84). -/
  | reset
  /-- A micro-step, or the acceptance of a word that is a command. -/
  | run (i : Instr)
  /-- The acceptance of a reserved word (R41). -/
  | reserved (why : Reject)
  /-- A non-busy engine with no command presented waits (R82). -/
  | idle
deriving DecidableEq, Repr

/-- In a busy phase the micro-operation of the phase, whatever is presented; else the presented word, if any. -/
def State.eventNoReset (s : State) : Event :=
  if s.phase.busy then
    match decodeMicroOp s.phase.code with
    | .ok i => .run i
    | .error e => .reserved e
  else
    match s.ports.req with
    | .command w =>
      match decodeCommand w with
      | .ok i => .run i
      | .error e => .reserved e
    | .none => .idle
    | .reset => .idle

/-- The next step's kind: reset is enabled in every phase and pre-empts anything else (R84). -/
def State.event (s : State) : Event :=
  match s.ports.req with
  | .reset => .reset
  | .none => s.eventNoReset
  | .command _ => s.eventNoReset

/-- The effect of accepting a reserved word: ProtocolError (R46, R76). -/
def State.rejectWord (s : State) : State := s.raise .protocolError

/-- `s` with a command word on `CMD`; a busy engine is put in `STREAM`, where every command is taken. -/
def State.withCommand (s : State) (w : Word) : State :=
  { s with
    ports := { s.ports with req := .command w }
    phase := if s.phase.busy then .stream else s.phase }

/-- `s` in the phase with a given code, so that its micro-operation is next; `RST` is taken away. -/
def State.withPhaseCode (s : State) (p : BitVec 4) : State :=
  match Phase.ofCode p with
  | some q =>
    { s with
      phase := q
      ports := { s.ports with req := match s.ports.req with
                                     | .reset => .none
                                     | .none => .none
                                     | .command w => .command w } }
  | none => s

end Sys2Proof.Machine
end

