-- ==== Sys2Proof/Machine/Step.lean ====
section
/-! DEFINITION. One step: the engine's own step (spec/00_scope.md R8, R9) and then the host's move onto its next
ports (assumption log 1). -/

namespace Sys2Proof.Machine

/-- The engine's part of a step. -/
def engineStep (s : State) : Host.Outcome State Fault Refusal :=
  match s.event with
  | .reset => .next s.resetEngine
  | .run i => exec i s
  | .reserved _ => .next s.rejectWord
  | .idle => .next s

/-- One step. A command presented in a busy phase is held on the ports; otherwise the host drives its next ports. -/
def step (s : State) : Host.Outcome State Fault Refusal :=
  andThen (engineStep s) (State.hostMove s.holdsCommand)

/-- `s` with an opcode-table word where the next step takes its instruction from: a phase code in the phase
register (at most 8 bits), or a command word on `CMD` (assumption log 7). -/
def State.withFetchWord (s : State) (nbits w : Nat) : State :=
  if nbits ≤ 8 then s.withPhaseCode (BitVec.ofNat 4 w) else s.withCommand (BitVec.ofNat 32 w)

end Sys2Proof.Machine
end

