-- ==== Sys2Proof/Machine/HostProgram.lean ====
section
/-! DEFINITION. The host agent of spec/30_encoding.md R44 and R45: its lines (RESET, CONSTRUCT, START, BLOCK, WAIT),
what each puts on the ports, and the pseudo-operations TRANSFORM, ENCRYPT, DECRYPT with the bytes a host collects.
The host polls `STATUS` and reads `DOUT`, `DOUTN` between steps (10_state.md R20, R21). -/

namespace Sys2Proof.Machine

/-- One line of the textual form, R44. -/
inductive Line where
  | reset
  /-- `klen` and `ivlen` override the length fields, which otherwise count the bytes written. -/
  | construct (key : List Byte) (iv : Option (List Byte)) (klen ivlen : Option Byte)
  | start
  /-- `N` is the number of bytes written. -/
  | block (bytes : List Byte)
  /-- An explicit `N`, for illegal values. -/
  | blockN (n : BitVec 5) (bytes : Vec Byte 16)
  | wait
deriving DecidableEq, Repr

/-- The claimed length of a buffer, 8 bits; longer buffers are claimed as 255 (R39). -/
def claimedLength (buf : List Byte) : Byte := BitVec.ofNat 8 (min buf.length 255)

/-- `N` of a BLOCK line: its number of bytes (R44: 1 to 16). R44 writes no line with 0 bytes or more than 16; here
such a line claims the illegal count 0, or its number of bytes, 31 standing for all above (DESIGN CHOICE, assumption
log 17), so it is a ProtocolError and never a shorter block. -/
def claimedCount (bytes : List Byte) : BitVec 5 := BitVec.ofNat 5 (min bytes.length 31)

/-- Bytes that stand on the data ports wherever a line puts none of its own: they may be anything (R22). -/
structure PortBytes where
  keyin : Vec Byte 16
  ivin : Vec Byte 8
  din : Vec Byte 16
deriving DecidableEq, Repr

/-- A buffer on a port: byte `j` of the buffer on byte `j` of the port; where the buffer has no byte, what stands
there otherwise. -/
def onPort {n : Nat} (stands : Vec Byte n) (buf : List Byte) : Vec Byte n :=
  Vec.ofFn fun j => buf.getD j.val (stands.get j)

/-- The command word of an instruction (no word for a micro-operation). -/
def commandRequest (i : Instr) : Request :=
  match encode i with
  | .cmd32 w => .command w
  | .uop4 _ => .none

/-- What a line puts on the ports (R44), over the bytes that stand there otherwise; WAIT puts nothing there. -/
def Line.ports (u : PortBytes) : Line → Ports
  | .reset => ⟨.reset, u.keyin, u.ivin, u.din⟩
  | .construct key none klen ivlen =>
    ⟨commandRequest (.construct false (ivlen.getD 0#8) (klen.getD (claimedLength key))),
      onPort u.keyin key, u.ivin, u.din⟩
  | .construct key (some iv) klen ivlen =>
    ⟨commandRequest (.construct true (ivlen.getD (claimedLength iv)) (klen.getD (claimedLength key))),
      onPort u.keyin key, onPort u.ivin iv, u.din⟩
  | .start => ⟨commandRequest .start, u.keyin, u.ivin, u.din⟩
  | .block bytes => ⟨commandRequest (.block (claimedCount bytes)), u.keyin, u.ivin, onPort u.din bytes⟩
  | .blockN n bytes => ⟨commandRequest (.block n), u.keyin, u.ivin, bytes⟩
  | .wait => ⟨.none, u.keyin, u.ivin, u.din⟩

/-- The host drives these ports now and nothing after them. -/
def State.present (s : State) (p : Ports) : State := { s with ports := p, script := [] }

/-- The state after one step; a stop (there is none) would leave the state as it is. -/
def State.stepped (s : State) : State :=
  match step s with
  | .next t => t
  | .fault _ => s
  | .refused _ => s

/-- Steps until the engine is not busy, at most `fuel` of them: the host's WAIT (R35). -/
def State.waitReady : Nat → State → State
  | 0, s => s
  | fuel + 1, s => if s.phase.busy then State.waitReady fuel s.stepped else s

/-- Every chain of busy phases ends within 11 micro-steps (R90). -/
def waitFuel : Nat := 11

/-- Steps until the request on the ports is taken, at most `fuel` of them: a command presented while busy is held
until the engine takes it (R46, R88 (a)). -/
def State.untilTaken : Nat → State → State
  | 0, s => s
  | fuel + 1, s => if s.ports.req = .none then s else State.untilTaken fuel s.stepped

/-- The host performs one line: WAIT polls until `BUSY = 0`; every other line is presented until it is taken. -/
def State.perform (u : PortBytes) (s : State) (l : Line) : State :=
  match l with
  | .wait => (s.present (l.ports u)).waitReady waitFuel
  | _ => (s.present (l.ports u)).untilTaken (waitFuel + 1)

/-- The output bytes a host reads: `dout[0..doutn-1]` (R20). -/
def State.output (s : State) : List Byte := s.dout.first s.doutn.toNat

/-- What a host collects right after a line: the output after a BLOCK, else nothing (R45). -/
def Line.collects (l : Line) (s : State) : List Byte :=
  match l with
  | .block _ => s.output
  | .blockN _ _ => s.output
  | _ => []

/-- The host performs lines in order, line `i` with the bytes `u i` on the port positions it leaves unused; the last
state and the bytes collected. -/
def State.performAll (u : Nat → PortBytes) (s : State) : List Line → State × List Byte
  | [] => (s, [])
  | l :: rest =>
    let t := s.perform (u 0) l
    let r := State.performAll (fun i => u (i + 1)) t rest
    (r.1, l.collects t ++ r.2)

/-- The lines of the blocks of a buffer: a BLOCK and a WAIT each (R45). -/
def blockLines : List (List Byte) → List Line
  | [] => []
  | blk :: rest => .block blk :: .wait :: blockLines rest

/-- `TRANSFORM <buf>` (R45): START, WAIT, then the blocks; with no byte, START and WAIT only. -/
def transformLines (buf : List Byte) : List Line := .start :: .wait :: blockLines (cutBlocks buf)

/-- `ENCRYPT <buf>` (R45). -/
def encryptLines (buf : List Byte) : List Line := transformLines buf

/-- `DECRYPT <buf>`: "an alias that calls the same transform" (R45, R70). -/
def decryptLines (buf : List Byte) : List Line := transformLines buf

end Sys2Proof.Machine
end

