-- ==== Sys2Proof/Safety.lean ====
section
/-! DEFINITION. The terms claims are made in: what the host can see (spec/10_state.md R24), the invariant of the
engine's registers, when two engines agree in all that can still matter (R25), and a host that does not disturb a
busy engine. A run is safe when every step answers a next state; no rule describes a stop (60_exceptions.md R83). -/

namespace Sys2Proof.Machine

/-- All a host can read: `STATUS`, `DOUT`, `DOUTN` (R24). -/
structure View where
  status : Byte
  dout : Vec Byte 16
  doutn : BitVec 5
deriving DecidableEq, Repr

/-- What the host sees of a state. -/
def State.view (s : State) : View := ⟨s.status, s.dout, s.doutn⟩

/-- The invariant of the engine's registers: what the rules say of them in every state that a run reaches. -/
structure State.Inv (s : State) : Prop where
  /-- `cnt` counts only inside a warm-up; it is 0 in every other phase (R17). -/
  cnt_zero : s.phase ≠ .sWarm → s.phase ≠ .sIvwarm → s.cnt = 0#2
  /-- The IV phases are entered only with an IV (R52). -/
  iv_present : s.phase = .sIvmix ∨ s.phase = .sIvwarm → s.ivp = true
  /-- `doutn` is 0 to 16 (R20). -/
  count_range : s.doutn.toNat ≤ 16
  /-- The bytes of `dout` from `doutn` on are 0x00 (R20). -/
  filler_zero : ∀ j : Fin 16, s.doutn.toNat ≤ j.val → s.dout.get j = 0#8
  /-- At most one of `ekey`, `eiv` is set (R47). -/
  one_length_fault : ¬ (s.ekey = true ∧ s.eiv = true)
  /-- After a failed CONSTRUCT the engine stays `UNKEYED` until a good one (R79). -/
  failed_unkeyed : s.ekey = true ∨ s.eiv = true → s.phase = .unkeyed
  /-- While a block's advance is pending, `last` says whether that block was short (R18). -/
  last_short : s.phase = .bIter → (s.last = true ↔ s.doutn.toNat < 16)
  /-- While a block's advance is pending, `doutn` is that block's count, at least 1 (R34 (c), R67). -/
  block_nonempty : s.phase = .bIter → 1 ≤ s.doutn.toNat
  /-- No output stands while unkeyed or while setup runs (R20). -/
  setup_clear : s.phase = .unkeyed ∨ s.phase = .sExpand ∨ s.phase = .sWarm ∨ s.phase = .sRemix ∨ s.phase = .sIvmix ∨
    s.phase = .sIvwarm → s.doutn = 0#5
  /-- In an open stream the last block, if any, was a full one (R68). -/
  stream_full : s.phase = .stream → s.doutn = 0#5 ∨ s.doutn = 16#5

/-- Two engines under the same host agree in every register whose value can still be read before it is written
again (R25, column "first read only after"; R26). -/
structure State.Agree (s t : State) : Prop where
  ports : s.ports = t.ports
  script : s.script = t.script
  phase : s.phase = t.phase
  ivp : s.ivp = t.ivp
  ekey : s.ekey = t.ekey
  eiv : s.eiv = t.eiv
  eproto : s.eproto = t.eproto
  dout : s.dout = t.dout
  doutn : s.doutn = t.doutn
  /-- The key is read only after a successful CONSTRUCT. -/
  key : s.phase ≠ .unkeyed → s.K = t.K
  /-- The IV is read only after a successful CONSTRUCT that supplied one. -/
  iv : (s.phase ≠ .unkeyed ∧ s.ivp = true) ∨ s.phase = .sIvmix → s.IV = t.IV
  /-- The cipher state is read only after EXPAND. -/
  cipher : s.phase ≠ .unkeyed → s.phase ≠ .keyed → s.phase ≠ .sExpand → s.cipher = t.cipher
  /-- `cnt` is read only in a warm-up. -/
  cnt : s.phase = .sWarm ∨ s.phase = .sIvwarm → s.cnt = t.cnt
  /-- `last` is read only in `B_ITER`. -/
  last : s.phase = .bIter → s.last = t.last

/-- The host does not disturb a busy engine: it holds a command, or asks for nothing and has nothing to come. -/
def State.Undisturbed (s : State) : Prop :=
  (∃ w, s.ports.req = .command w) ∨ (s.ports.req = .none ∧ s.script = [])

/-- The host neither asserts `RST` now nor has it in its script. -/
def State.ResetFree (s : State) : Prop := s.ports.req ≠ .reset ∧ ∀ p ∈ s.script, p.req ≠ .reset

/-- A CONSTRUCT word with legal lengths: `KLEN = 16` and either no IV or `IVLEN = 8` (R47, R85). -/
def validConstruct (w : Word) : Prop :=
  w &&& 0xFFFE0000#32 = 0x10000000#32 ∧ (w.extractLsb' 0 8).toNat = 16 ∧
    (w.getLsbD 16 = false ∨ (w.extractLsb' 8 8).toNat = 8)

end Sys2Proof.Machine
end

