-- ==== Sys2Proof/Certificates/Slice0/Obligations.lean ====
section
/-! DEFINITION. The statements for the provers, from the numbered rules of spec/. "Non-busy" is one of the phases in
which a command is taken (10_state.md R16). Every equation with a whole next state is also the instruction's frame:
what it does not name is unchanged. The engine has no memory (20_memory.md R27), so no statement speaks of one.
`engineStep` is the engine's own part of a step; `step` adds the host's move, the model's own (assumption log 1). -/

open Sys2Proof Sys2Proof.Machine

/-! ### Encoding -/

/-- Every instruction, with every operand at every value, is read back from its own encoding. -/
def Obligations.DecodeOfEncodeIsTheInstruction : Prop :=
  ∀ i : Instr, decode (encode i) = .ok i

/-- Each code stands for at most one instruction, whose encoding it is: no bit of a code is dropped. -/
def Obligations.EncodeOfDecodeIsTheCode : Prop :=
  ∀ (code : Code) (i : Instr), decode code = .ok i → encode i = code

/-- Words written out in 30_encoding.md and in V-CMD of 95_test_vectors.md, and the six phase codes of R42. -/
def Obligations.SpecWordsDecodeAsWritten : Prop :=
  decodeCommand 0x10010810#32 = .ok (.construct true 8#8 16#8) ∧
  decodeCommand 0x10000010#32 = .ok (.construct false 0#8 16#8) ∧
  decodeCommand 0x1000FF10#32 = .ok (.construct false 255#8 16#8) ∧
  decodeCommand 0x1001080F#32 = .ok (.construct true 8#8 15#8) ∧
  decodeCommand 0x20000000#32 = .ok .start ∧
  decodeCommand 0x30000010#32 = .ok (.block 16#5) ∧
  decodeCommand 0x3000000E#32 = .ok (.block 14#5) ∧
  decodeCommand 0x30000001#32 = .ok (.block 1#5) ∧
  decodeMicroOp 2#4 = .ok .expand ∧ decodeMicroOp 3#4 = .ok .iterWarm ∧ decodeMicroOp 4#4 = .ok .remix ∧
  decodeMicroOp 5#4 = .ok .ivmix ∧ decodeMicroOp 6#4 = .ok .iterIvwarm ∧ decodeMicroOp 8#4 = .ok .iterBlock

/-- Which words no command row matches, said by the fields of R38 and the cases (a) to (d) of R41: a reserved
`OP`, or a must-be-zero bit that is set. (The decoder itself goes by the masks of R40.) That a BLOCK word with the
illegal count of R41 (e) is decoded, and faults in its meaning, is the model's reading (assumption log 8, DEDUCED). -/
def Obligations.ReservedWordsByField : Prop :=
  ∀ w : Word, (∃ e, decodeCommand w = .error e) ↔
    (w.extractLsb' 28 4 ≠ 1#4 ∧ w.extractLsb' 28 4 ≠ 2#4 ∧ w.extractLsb' 28 4 ≠ 3#4) ∨
    (w.extractLsb' 28 4 = 1#4 ∧ w.extractLsb' 17 11 ≠ 0#11) ∨
    (w.extractLsb' 28 4 = 2#4 ∧ w.extractLsb' 0 28 ≠ 0#28) ∨
    (w.extractLsb' 28 4 = 3#4 ∧ w.extractLsb' 5 23 ≠ 0#23)

/-- R16's codes: the code determines the phase, and 9 to 15 are no phase's; R42: exactly the busy phases select a
micro-operation. -/
def Obligations.PhaseCodesSelectMicroOps : Prop :=
  (∀ p : Phase, Phase.ofCode p.code = some p) ∧
  (∀ k : BitVec 4, Phase.ofCode k = none ↔ 9 ≤ k.toNat) ∧
  (∀ p : Phase, p.busy = true ↔ ∃ i, decodeMicroOp p.code = .ok i)

/-! ### What a step runs -/

/-- A STEP RUNS THE DECODED INSTRUCTION: in a non-busy phase the presented word's, and then the host drives its
next ports (that move is the model's own: assumption log 1). -/
def Obligations.StepRunsThePresentedCommand : Prop :=
  ∀ (s : State) (w : Word) (i : Instr), s.ports.req = .command w → s.phase.busy = false →
    decodeCommand w = .ok i → ∃ t, exec i s = .next t ∧ step s = .next t.hostNext

/-- A STEP RUNS THE DECODED INSTRUCTION: in a busy phase the phase's micro-operation, whether or not a command is
presented; a presented command is held on the ports. -/
def Obligations.StepRunsThePhasesMicroOp : Prop :=
  ∀ (s : State) (i : Instr), decodeMicroOp s.phase.code = .ok i →
    (s.ports.req = .none → ∃ t, exec i s = .next t ∧ step s = .next t.hostNext) ∧
    (∀ w, s.ports.req = .command w → ∃ t, exec i s = .next t ∧ step s = .next t)

/-- R82 and the model's own host side (assumption logs 1, 3): a non-busy engine with no command presented keeps
every register, and only the host moves, to the next ports of its script or to asking for nothing. -/
def Obligations.WaitingStepMovesOnlyTheHost : Prop :=
  ∀ s : State, s.ports.req = .none → s.phase.busy = false →
    (∀ p rest, s.script = p :: rest → step s = .next { s with ports := p, script := rest }) ∧
    (s.script = [] → step s = .next s)

/-- R46: a command presented in a busy phase is neither executed nor faulted: the engine does exactly what it would
do with no command presented. That the command stays on the ports with its data, and the script unchanged, is the
model's own host side (assumption log 1, DESIGN CHOICE; R88 (a) asks it of the host). -/
def Obligations.BusyStepHoldsTheCommand : Prop :=
  ∀ (s : State) (w : Word), s.ports.req = .command w → s.phase.busy = true →
    ∃ t, step { s with ports := { s.ports with req := .none } } = .next t ∧
      step s = .next { t with ports := s.ports, script := s.script }

/-- Asking any command's meaning to run in a busy phase changes nothing (R46: no word is decoded there; a step never
asks, assumption log 4). -/
def Obligations.CommandsHaveNoEffectWhileBusy : Prop :=
  ∀ s : State, s.phase.busy = true →
    (∀ ivp ivlen klen, exec (.construct ivp ivlen klen) s = .next s) ∧
    exec .start s = .next s ∧ (∀ n, exec (.block n) s = .next s)

/-- R76: every word that is not an acceptable CONSTRUCT, START or BLOCK in the current non-busy phase sets `eproto`
and changes nothing else of the engine. -/
def Obligations.OtherWordsAreProtocolErrors : Prop :=
  ∀ (s : State) (w : Word), s.ports.req = .command w → s.phase.busy = false →
    ¬ (w &&& 0xFFFE0000#32 = 0x10000000#32) →
    ¬ (w = 0x20000000#32 ∧ (s.phase = .keyed ∨ s.phase = .stream)) →
    ¬ (w &&& 0xFFFFFFE0#32 = 0x30000000#32 ∧ 1 ≤ (w.extractLsb' 0 5).toNat ∧ (w.extractLsb' 0 5).toNat ≤ 16 ∧
        s.phase = .stream) →
    engineStep s = .next { s with eproto := true }

/-! ### The three commands -/

/-- R47: CONSTRUCT's whole effect, in every non-busy phase. -/
def Obligations.ConstructChecksAndLatches : Prop :=
  ∀ (s : State) (ivp : Bool) (ivlen klen : Byte), s.phase.busy = false →
    exec (.construct ivp ivlen klen) s = .next (
      if klen.toNat ≠ 16 then
        { s with ekey := true, eiv := false, eproto := false, dout := Vec.fill 16 0#8, doutn := 0#5, phase := .unkeyed }
      else if ivp = true ∧ ivlen.toNat ≠ 8 then
        { s with ekey := false, eiv := true, eproto := false, dout := Vec.fill 16 0#8, doutn := 0#5, phase := .unkeyed }
      else
        { s with
          ekey := false, eiv := false, eproto := false, dout := Vec.fill 16 0#8, doutn := 0#5, phase := .keyed
          K := s.ports.keyin, ivp := ivp, IV := if ivp = true then s.ports.ivin else s.IV })

/-- R74, R75: the two length faults of an accepted CONSTRUCT word, by the bits of the word; the key is checked
first, whatever the IV fields say; and an absent IV has no length to check. -/
def Obligations.LengthFaultsOfConstructWords : Prop :=
  ∀ (s : State) (w : Word), s.ports.req = .command w → s.phase.busy = false →
    w &&& 0xFFFE0000#32 = 0x10000000#32 →
    ((w.extractLsb' 0 8).toNat ≠ 16 →
      engineStep s = .next { s with
        ekey := true, eiv := false, eproto := false, phase := .unkeyed
        dout := Vec.fill 16 0#8, doutn := 0#5 }) ∧
    ((w.extractLsb' 0 8).toNat = 16 → w.getLsbD 16 = true → (w.extractLsb' 8 8).toNat ≠ 8 →
      engineStep s = .next { s with
        ekey := false, eiv := true, eproto := false, phase := .unkeyed
        dout := Vec.fill 16 0#8, doutn := 0#5 }) ∧
    ((w.extractLsb' 0 8).toNat = 16 → w.getLsbD 16 = false →
      ∃ t, engineStep s = .next t ∧ t.ekey = false ∧ t.eiv = false ∧ t.phase = .keyed)

/-- R67: BLOCK's whole effect: the XOR onto the `n` valid bytes at acceptance in `STREAM`; in any other non-busy
phase, with an illegal count, or with a reserved bit set, nothing but `eproto`. (`keystream` is stated apart.) -/
def Obligations.BlockXorsKeystreamOrFaults : Prop :=
  (∀ (s : State) (n : BitVec 5), s.phase = .stream → 1 ≤ n.toNat → n.toNat ≤ 16 →
    exec (.block n) s = .next { s with
      dout := Vec.ofFn fun j => if j.val < n.toNat then s.ports.din.get j ^^^ (keystream s.x).get j else 0#8
      doutn := n
      last := decide (n.toNat < 16)
      phase := .bIter }) ∧
  (∀ (s : State) (n : BitVec 5), s.phase.busy = false → (s.phase ≠ .stream ∨ n.toNat = 0 ∨ 16 < n.toNat) →
    exec (.block n) s = .next { s with eproto := true }) ∧
  (∀ (s : State) (w : Word), s.ports.req = .command w → s.phase.busy = false →
    w.extractLsb' 28 4 = 3#4 → w.extractLsb' 5 23 ≠ 0#23 →
    engineStep s = .next { s with eproto := true })

/-! ### The micro-operations -/

/-- R49: EXPAND by its written-out table of lanes, each key word made of two bytes of `K`, low byte first (R28). -/
def Obligations.ExpandByTable : Prop :=
  ∀ s : State,
    let k0 : Half := s.K.get 1 ++ s.K.get 0
    let k1 : Half := s.K.get 3 ++ s.K.get 2
    let k2 : Half := s.K.get 5 ++ s.K.get 4
    let k3 : Half := s.K.get 7 ++ s.K.get 6
    let k4 : Half := s.K.get 9 ++ s.K.get 8
    let k5 : Half := s.K.get 11 ++ s.K.get 10
    let k6 : Half := s.K.get 13 ++ s.K.get 12
    let k7 : Half := s.K.get 15 ++ s.K.get 14
    exec .expand s = .next { s with
      x := ⟨[k1 ++ k0, k6 ++ k5, k3 ++ k2, k0 ++ k7, k5 ++ k4, k2 ++ k1, k7 ++ k6, k4 ++ k3], rfl⟩
      c := ⟨[k4 ++ k5, k1 ++ k2, k6 ++ k7, k3 ++ k4, k0 ++ k1, k5 ++ k6, k2 ++ k3, k7 ++ k0], rfl⟩
      b := false
      cnt := 0#2
      phase := .sWarm }

/-- R50, R53: a warm-up micro-step is one ITER and its count: `cnt + 1` while `cnt < 3`, and after the fourth
`cnt = 0` and the next phase, `S_REMIX` or `STREAM`. (`iter` is stated apart.) -/
def Obligations.WarmUpStepsIterateAndCount : Prop :=
  ∀ (s : State) (i : Instr) (done : Phase), (i = .iterWarm ∧ done = .sRemix) ∨ (i = .iterIvwarm ∧ done = .stream) →
    (s.cnt.toNat = 3 →
      exec i s = .next { s with
        x := (iter s.cipher).x, c := (iter s.cipher).c, b := (iter s.cipher).b, cnt := 0#2, phase := done }) ∧
    (s.cnt.toNat < 3 →
      exec i s = .next { s with
        x := (iter s.cipher).x, c := (iter s.cipher).c, b := (iter s.cipher).b
        cnt := BitVec.ofNat 2 (s.cnt.toNat + 1) })

/-- R51: REMIX by its eight written-out lines, and the next phase. -/
def Obligations.RemixXorsStateIntoCounters : Prop :=
  ∀ s : State, exec .remix s = .next { s with
    c := ⟨[s.c.get 0 ^^^ s.x.get 4, s.c.get 1 ^^^ s.x.get 5, s.c.get 2 ^^^ s.x.get 6, s.c.get 3 ^^^ s.x.get 7,
           s.c.get 4 ^^^ s.x.get 0, s.c.get 5 ^^^ s.x.get 1, s.c.get 6 ^^^ s.x.get 2, s.c.get 7 ^^^ s.x.get 3], rfl⟩
    phase := if s.ivp = true then .sIvmix else .stream }

/-- R52: IVMIX with the four masks written by bytes of the IV: the high half of `m1` is `iv0[15:0]` and its low half
`iv1[31:16]`, and of `m3` the other way round (R29: low byte first). -/
def Obligations.IvMixXorsMasksIntoCounters : Prop :=
  ∀ s : State,
    let m0 : Word := s.IV.get 3 ++ s.IV.get 2 ++ s.IV.get 1 ++ s.IV.get 0
    let m1 : Word := s.IV.get 1 ++ s.IV.get 0 ++ s.IV.get 7 ++ s.IV.get 6
    let m2 : Word := s.IV.get 7 ++ s.IV.get 6 ++ s.IV.get 5 ++ s.IV.get 4
    let m3 : Word := s.IV.get 5 ++ s.IV.get 4 ++ s.IV.get 3 ++ s.IV.get 2
    exec .ivmix s = .next { s with
      c := ⟨[s.c.get 0 ^^^ m0, s.c.get 1 ^^^ m1, s.c.get 2 ^^^ m2, s.c.get 3 ^^^ m3,
             s.c.get 4 ^^^ m0, s.c.get 5 ^^^ m1, s.c.get 6 ^^^ m2, s.c.get 7 ^^^ m3], rfl⟩
      cnt := 0#2
      phase := .sIvwarm }

/-- R68: the block advance is one ITER; after a short block the stream is over, after a full one it stays open. -/
def Obligations.BlockAdvanceIterates : Prop :=
  ∀ s : State, exec .iterBlock s = .next { s with
    x := (iter s.cipher).x, c := (iter s.cipher).c, b := (iter s.cipher).b
    phase := if s.last = true then .keyed else .stream }

/-! ### The arithmetic -/

/-- R56: G is the low word of the exact square XOR its high word. -/
def Obligations.SquareAndFold : Prop :=
  ∀ u : Word, (gFun u).toNat = (u.toNat * u.toNat % 2 ^ 32) ^^^ (u.toNat * u.toNat / 2 ^ 32)

/-- R57, R58: the new state words of an ITER, by the eight lines of R58, from the `g` of the old `x` and old `c`. -/
def Obligations.IterMixesLanes : Prop :=
  ∀ k : CipherState,
    let g : Fin 8 → Word := fun i => gFun (k.x.get i + k.c.get i)
    (iter k).x.get 0 = g 0 + (g 7).rotateLeft 16 + (g 6).rotateLeft 16 ∧
    (iter k).x.get 1 = g 1 + (g 0).rotateLeft 8 + g 7 ∧
    (iter k).x.get 2 = g 2 + (g 1).rotateLeft 16 + (g 0).rotateLeft 16 ∧
    (iter k).x.get 3 = g 3 + (g 2).rotateLeft 8 + g 1 ∧
    (iter k).x.get 4 = g 4 + (g 3).rotateLeft 16 + (g 2).rotateLeft 16 ∧
    (iter k).x.get 5 = g 5 + (g 4).rotateLeft 8 + g 3 ∧
    (iter k).x.get 6 = g 6 + (g 5).rotateLeft 16 + (g 4).rotateLeft 16 ∧
    (iter k).x.get 7 = g 7 + (g 6).rotateLeft 8 + g 5

/-- R61, R62: the new counters and carry of an ITER, by the chain of carries: into lane 0 the stored bit, out of each
lane into the next, out of lane 7 into the stored bit. -/
def Obligations.IterChainsCarries : Prop :=
  ∀ k : CipherState,
    let A : Vec Nat 8 := ⟨[0x4D34D34D, 0xD34D34D3, 0x34D34D34, 0x4D34D34D,
                           0xD34D34D3, 0x34D34D34, 0x4D34D34D, 0xD34D34D3], rfl⟩
    ∃ carry : Nat → Nat, carry 0 = k.b.toNat ∧ carry 8 = (iter k).b.toNat ∧
      ∀ i : Fin 8,
        ((iter k).c.get i).toNat = ((k.c.get i).toNat + A.get i + carry i.val) % 2 ^ 32 ∧
        carry (i.val + 1) = if 2 ^ 32 ≤ (k.c.get i).toNat + A.get i + carry i.val then 1 else 0

/-- R63: the eight counters and `b` are one accumulator: a counter update is one addition of the packed constants
and the old `b` to the packed 256-bit counters, lane 0 least significant, with `b` as bit 256 of the sum. -/
def Obligations.CounterUpdateIsOneWideAddition : Prop :=
  ∀ (c : Vec Word 8) (b : Bool),
    let pack : Vec Word 8 → Nat := fun v =>
      (v.get 0).toNat + (v.get 1).toNat * 2 ^ 32 + (v.get 2).toNat * 2 ^ 64 + (v.get 3).toNat * 2 ^ 96 +
      (v.get 4).toNat * 2 ^ 128 + (v.get 5).toNat * 2 ^ 160 + (v.get 6).toNat * 2 ^ 192 + (v.get 7).toNat * 2 ^ 224
    pack (nextCounters c b) + (nextCarry c b).toNat * 2 ^ 256 = pack c + pack counterConstants + b.toNat

/-- R64, R65: the sixteen keystream bytes by bit fields of `x`, in order: bytes `4j` to `4j + 3` are the bytes of
`x[2j]`, low byte first, XOR the high half of `x[2j+5]` and then the low half of `x[2j+3]`. -/
def Obligations.KeystreamByBitFields : Prop :=
  ∀ x : Vec Word 8, keystream x = ⟨[
    (x.get 0).extractLsb' 0 8 ^^^ (x.get 5).extractLsb' 16 8,
    (x.get 0).extractLsb' 8 8 ^^^ (x.get 5).extractLsb' 24 8,
    (x.get 0).extractLsb' 16 8 ^^^ (x.get 3).extractLsb' 0 8,
    (x.get 0).extractLsb' 24 8 ^^^ (x.get 3).extractLsb' 8 8,
    (x.get 2).extractLsb' 0 8 ^^^ (x.get 7).extractLsb' 16 8,
    (x.get 2).extractLsb' 8 8 ^^^ (x.get 7).extractLsb' 24 8,
    (x.get 2).extractLsb' 16 8 ^^^ (x.get 5).extractLsb' 0 8,
    (x.get 2).extractLsb' 24 8 ^^^ (x.get 5).extractLsb' 8 8,
    (x.get 4).extractLsb' 0 8 ^^^ (x.get 1).extractLsb' 16 8,
    (x.get 4).extractLsb' 8 8 ^^^ (x.get 1).extractLsb' 24 8,
    (x.get 4).extractLsb' 16 8 ^^^ (x.get 7).extractLsb' 0 8,
    (x.get 4).extractLsb' 24 8 ^^^ (x.get 7).extractLsb' 8 8,
    (x.get 6).extractLsb' 0 8 ^^^ (x.get 3).extractLsb' 16 8,
    (x.get 6).extractLsb' 8 8 ^^^ (x.get 3).extractLsb' 24 8,
    (x.get 6).extractLsb' 16 8 ^^^ (x.get 1).extractLsb' 0 8,
    (x.get 6).extractLsb' 24 8 ^^^ (x.get 1).extractLsb' 8 8], rfl⟩

/-- R31: block `q` of a buffer is its bytes `16q` to `min(16q + 15, L - 1)`, and there are `ceil(L/16)` blocks. -/
def Obligations.BlocksOfABuffer : Prop :=
  ∀ buf : List Byte, (cutBlocks buf).length = (buf.length + 15) / 16 ∧
    ∀ q, 16 * q < buf.length → (cutBlocks buf)[q]? = some ((buf.drop (16 * q)).take 16)

/-! ### Reset, status, and who writes what -/

/-- R84: reset, in every phase, busy or not. The host's own side goes on to its next ports. -/
def Obligations.ResetClearsEveryRegister : Prop :=
  ∀ s : State, s.ports.req = .reset → ∃ t, step s = .next t ∧
    t.x = Vec.fill 8 0#32 ∧ t.c = Vec.fill 8 0#32 ∧ t.b = false ∧
    t.K = Vec.fill 16 0#8 ∧ t.IV = Vec.fill 8 0#8 ∧ t.ivp = false ∧
    t.phase = .unkeyed ∧ t.cnt = 0#2 ∧ t.last = false ∧
    t.ekey = false ∧ t.eiv = false ∧ t.eproto = false ∧
    t.dout = Vec.fill 16 0#8 ∧ t.doutn = 0#5 ∧ t.status = 0x00#8

/-- R21: the `STATUS` byte, bit by bit. -/
def Obligations.StatusBits : Prop :=
  ∀ s : State,
    (s.status.getLsbD 0 = true ↔ s.phase = .sExpand ∨ s.phase = .sWarm ∨ s.phase = .sRemix ∨ s.phase = .sIvmix ∨
      s.phase = .sIvwarm ∨ s.phase = .bIter) ∧
    (s.status.getLsbD 1 = true ↔ s.phase ≠ .unkeyed) ∧
    (s.status.getLsbD 2 = true ↔ s.phase = .stream) ∧
    s.status.getLsbD 3 = s.ivp ∧ s.status.getLsbD 4 = s.ekey ∧ s.status.getLsbD 5 = s.eiv ∧
    s.status.getLsbD 6 = s.eproto ∧ s.status.getLsbD 7 = false

/-- No step stops: no fault of R73 and no command leaves the engine stuck (R83). -/
def Obligations.EveryStepGoesOn : Prop := ∀ s : State, ∃ t, step s = .next t

/-- The whole FSM, R55: the phase after a step, whatever the event. -/
def Obligations.PhaseTransitions : Prop :=
  ∀ s t : State, step s = .next t →
    (s.ports.req = .reset → t.phase = .unkeyed) ∧
    (s.ports.req ≠ .reset → s.phase.busy = true → t.phase =
      match s.phase with
      | .sExpand => .sWarm
      | .sWarm => if s.cnt.toNat < 3 then .sWarm else .sRemix
      | .sRemix => if s.ivp = true then .sIvmix else .stream
      | .sIvmix => .sIvwarm
      | .sIvwarm => if s.cnt.toNat < 3 then .sIvwarm else .stream
      | .bIter => if s.last = true then .keyed else .stream
      | .unkeyed => .unkeyed
      | .keyed => .keyed
      | .stream => .stream) ∧
    (s.ports.req = .none → s.phase.busy = false → t.phase = s.phase) ∧
    (∀ w, s.ports.req = .command w → s.phase.busy = false → t.phase =
      if w &&& 0xFFFE0000#32 = 0x10000000#32 then
        if (w.extractLsb' 0 8).toNat = 16 ∧ (w.getLsbD 16 = false ∨ (w.extractLsb' 8 8).toNat = 8) then .keyed
        else .unkeyed
      else if w = 0x20000000#32 ∧ (s.phase = .keyed ∨ s.phase = .stream) then .sExpand
      else if w &&& 0xFFFFFFE0#32 = 0x30000000#32 ∧ 1 ≤ (w.extractLsb' 0 5).toNat ∧
        (w.extractLsb' 0 5).toNat ≤ 16 ∧ s.phase = .stream then .bIter
      else s.phase)

/-- Once unkeyed, the engine stays so until a reset-free step accepts a CONSTRUCT with legal lengths: a key that
failed validation is never followed by a transform (R47, R79). -/
def Obligations.UnkeyedUntilValidConstruct : Prop :=
  ∀ s t : State, s.phase = .unkeyed → step s = .next t → t.phase ≠ .unkeyed →
    t.phase = .keyed ∧ ∃ w, s.ports.req = .command w ∧ validConstruct w

/-- The key, the IV and its presence bit change only in a reset or an accepted CONSTRUCT with legal lengths, which
leaves the port bytes in `K` (R14, R15). -/
def Obligations.KeyChangesOnlyByConstruct : Prop :=
  ∀ s t : State, step s = .next t → ¬ (t.K = s.K ∧ t.IV = s.IV ∧ t.ivp = s.ivp) →
    s.ports.req = .reset ∨
    (s.phase.busy = false ∧ t.K = s.ports.keyin ∧ ∃ w, s.ports.req = .command w ∧ validConstruct w)

/-- `x`, `c` and `b` change only in a reset or a micro-step, and no command touches them (R10, R11, R12). -/
def Obligations.CipherStateChangesOnlyBusy : Prop :=
  ∀ s t : State, step s = .next t → ¬ (t.x = s.x ∧ t.c = s.c ∧ t.b = s.b) →
    s.ports.req = .reset ∨ s.phase.busy = true

/-- `dout` and `doutn` change only by a reset, CONSTRUCT, START or BLOCK (R20): never in a busy phase. And only a
BLOCK leaves `doutn` other than 0. -/
def Obligations.OutputChangesOnlyByCommands : Prop :=
  ∀ s t : State, step s = .next t → ¬ (t.dout = s.dout ∧ t.doutn = s.doutn) →
    s.ports.req = .reset ∨
    (s.phase.busy = false ∧ ∃ w i, s.ports.req = .command w ∧ decodeCommand w = .ok i ∧
      (t.doutn ≠ 0#5 → s.phase = .stream ∧ i = .block t.doutn))

/-- An error flag goes from 1 to 0 only in a reset or an accepted CONSTRUCT (R19, R79). -/
def Obligations.FlagsClearedOnlyByConstructOrReset : Prop :=
  ∀ s t : State, step s = .next t →
    (s.ekey = true ∧ t.ekey = false) ∨ (s.eiv = true ∧ t.eiv = false) ∨ (s.eproto = true ∧ t.eproto = false) →
    s.ports.req = .reset ∨
    (s.phase.busy = false ∧ ∃ w, s.ports.req = .command w ∧ w &&& 0xFFFE0000#32 = 0x10000000#32)

/-- A step that raises a flag is the acceptance of one command word; it leaves the cipher state, the held key and IV,
`cnt` and `last` alone, produces no output and ends non-busy (R78, R83). -/
def Obligations.FaultsLeaveNoTraceButTheFlag : Prop :=
  ∀ s t : State, step s = .next t →
    (s.ekey = false ∧ t.ekey = true) ∨ (s.eiv = false ∧ t.eiv = true) ∨ (s.eproto = false ∧ t.eproto = true) →
    (∃ w, s.ports.req = .command w) ∧ s.phase.busy = false ∧ t.phase.busy = false ∧
    t.x = s.x ∧ t.c = s.c ∧ t.b = s.b ∧ t.K = s.K ∧ t.IV = s.IV ∧ t.ivp = s.ivp ∧ t.cnt = s.cnt ∧ t.last = s.last ∧
    ((t.dout = s.dout ∧ t.doutn = s.doutn) ∨ (t.dout = Vec.fill 16 0#8 ∧ t.doutn = 0#5))

/-! ### The invariant -/

/-- The registers after reset meet the invariant. -/
def Obligations.ResetMeetsTheInvariant : Prop := State.reset.Inv

/-- Every step keeps the invariant of the engine's registers (R17, R18, R20, R47, R52, R68, R79). -/
def Obligations.StepKeepsTheInvariant : Prop :=
  ∀ s t : State, s.Inv → step s = .next t → t.Inv

/-! ### Whole runs of the engine -/

/-- From every state, whatever the host does (a reset among it), the engine is non-busy after at most 11 steps, busy
until then. When the host holds a command, or asks for nothing and has nothing to come, its ports and script are then
unchanged: that clause is about the model's own host side (assumption log 1). -/
def Obligations.BusyPeriodsEnd : Prop :=
  ∀ s : State, ∃ k, k ≤ 11 ∧ ∃ t, Host.Core.run Sys2Proof.core k s = .next t ∧ t.phase.busy = false ∧
    (∀ m, m < k → ∃ u, Host.Core.run Sys2Proof.core m s = .next u ∧ u.phase.busy = true) ∧
    (s.Undisturbed → t.ports = s.ports ∧ t.script = s.script)

/-- R83, with the bounds of R46 and R90: from every state, one CONSTRUCT with legal lengths, held until it is taken,
reaches `KEYED`. That a command presented to a busy engine is held is the model's own host side (assumption log 1,
DESIGN CHOICE; R88 (a) asks it of the host). -/
def Obligations.OneConstructReachesKeyed : Prop :=
  ∀ (s : State) (w : Word), s.ports.req = .command w → validConstruct w →
    ∃ k, k ≤ 12 ∧ ∃ t, Host.Core.run Sys2Proof.core k s = .next t ∧ t.phase = .keyed ∧ t.K = s.ports.keyin

/-- R54: from `S_EXPAND`, whatever a host that does not reset does, the engine is busy for exactly 6 steps without an
IV, 11 with one, and then holds `Setup(K, IV)` in an open stream; nothing else of the engine has changed. What then
stands on the ports and in the script is the model's own host side (assumption log 1) and left open here. -/
def Obligations.SetupRunsInSixOrElevenSteps : Prop :=
  ∀ s : State, s.phase = .sExpand → s.ResetFree →
    let n := if s.ivp = true then 11 else 6
    let k := setup s.K (if s.ivp = true then some s.IV else none)
    (∃ p q, Host.Core.run Sys2Proof.core n s =
      .next { s with x := k.x, c := k.c, b := k.b, cnt := 0#2, phase := .stream, ports := p, script := q }) ∧
    ∀ m, m < n → ∃ t, Host.Core.run Sys2Proof.core m s = .next t ∧ t.phase.busy = true

/-- R48: START in `KEYED` and `STREAM` clears the output and begins setup, and in `UNKEYED` is a ProtocolError; and
a START taken, with no further command, leaves an open stream whose cipher state is `Setup(K, IV)`, the output still
clear and no flag changed (what then stands on the ports is the host's and left open). -/
def Obligations.StartOpensAFreshStream : Prop :=
  (∀ s : State, s.phase = .keyed ∨ s.phase = .stream →
    exec .start s = .next { s with dout := Vec.fill 16 0#8, doutn := 0#5, phase := .sExpand }) ∧
  (∀ s : State, s.phase = .unkeyed → exec .start s = .next { s with eproto := true }) ∧
  (∀ s : State, s.phase = .keyed ∨ s.phase = .stream → s.ports.req = .command 0x20000000#32 → s.script = [] →
    let n := if s.ivp = true then 12 else 7
    let k := setup s.K (if s.ivp = true then some s.IV else none)
    ∃ p : Ports, Host.Core.run Sys2Proof.core n s =
      .next { s with
        x := k.x, c := k.c, b := k.b, cnt := 0#2, phase := .stream, dout := Vec.fill 16 0#8, doutn := 0#5
        ports := p })

/-- R69: START and one BLOCK per 16 bytes, as a host performs TRANSFORM, yield `Transform(K, iv, in)`, whatever stands
on each unused byte of the data ports at each line. -/
def Obligations.CommandsComputeTransform : Prop :=
  ∀ (u : Nat → PortBytes) (s : State) (buf : List Byte), s.phase = .keyed ∨ s.phase = .stream →
    (s.performAll u (transformLines buf)).2 = transform s.K s.heldIv buf

/-- R69: output byte `p` is input byte `p` XOR byte `p` of the keystream, and there are as many bytes out as in. -/
def Obligations.TransformIsXorWithKeystream : Prop :=
  ∀ (K : Vec Byte 16) (iv : Option (Vec Byte 8)) (buf : List Byte),
    (transform K iv buf).length = buf.length ∧
    ∀ (p : Nat) (h : p < buf.length), (transform K iv buf)[p]? = some (buf[p] ^^^ keystreamByte K iv p)

/-- R71: any length of buffer gives as many output bytes; the engine ends in `STREAM` when the length is a multiple of
16 (0 included), else in `KEYED`, with the same key and IV and no flag changed. -/
def Obligations.TransformKeepsLengthAndEndsReady : Prop :=
  ∀ (u : Nat → PortBytes) (s : State) (buf : List Byte), s.phase = .keyed ∨ s.phase = .stream →
    let r := s.performAll u (transformLines buf)
    r.2.length = buf.length ∧
    r.1.phase = (if buf.length % 16 = 0 then .stream else .keyed) ∧
    r.1.K = s.K ∧ r.1.IV = s.IV ∧ r.1.ivp = s.ivp ∧ r.1.ekey = s.ekey ∧ r.1.eiv = s.eiv ∧ r.1.eproto = s.eproto

/-- R70 (a): transforming a buffer and then, on the same engine, its output gives the buffer back. -/
def Obligations.TransformTwiceIsTheInput : Prop :=
  ∀ (u v : Nat → PortBytes) (s : State) (buf : List Byte), s.phase = .keyed ∨ s.phase = .stream →
    let r := s.performAll u (encryptLines buf)
    (r.1.performAll v (decryptLines r.2)).2 = buf

/-- R70 (b), (c): what a transform outputs depends on the key, the IV's presence, the IV if present, and the input,
and on nothing else that an engine holds, nor on what stands on any unused byte of the data ports at any line. -/
def Obligations.TransformDependsOnKeyIvInputOnly : Prop :=
  ∀ (u v : Nat → PortBytes) (s t : State) (buf : List Byte),
    s.phase = .keyed ∨ s.phase = .stream → t.phase = .keyed ∨ t.phase = .stream →
    s.K = t.K → s.ivp = t.ivp → (s.ivp = true → s.IV = t.IV) →
    (s.performAll u (transformLines buf)).2 = (t.performAll v (transformLines buf)).2

/-! ### What cannot be seen -/

/-- R25, R26: two engines that agree in all that can be read before it is written again show their host the same,
for ever: no output depends on a reset value of `x`, `c`, `b`, `K`, `IV`, or on what an earlier stream left there. -/
def Obligations.UnwrittenStateNeverShows : Prop :=
  ∀ s t : State, s.Agree t → ∀ n : Nat, ∃ s' t',
    Host.Core.run Sys2Proof.core n s = .next s' ∧ Host.Core.run Sys2Proof.core n t = .next t' ∧
    s'.Agree t' ∧ s'.view = t'.view

/-- R22: a port byte that the command does not use has no effect on any register: `DIN[j]` from `N` on, `KEYIN` and
`IVIN` when a length is wrong, `IVIN` without an IV, every data port for START; and `IVLEN` without an IV. -/
def Obligations.UnusedPortBytesHaveNoEffect : Prop :=
  (∀ (s : State) (n : BitVec 5) (p q : Ports), (∀ j : Fin 16, j.val < n.toNat → p.din.get j = q.din.get j) →
    ∃ t : State, exec (.block n) { s with ports := p } = .next { t with ports := p } ∧
      exec (.block n) { s with ports := q } = .next { t with ports := q }) ∧
  (∀ (s : State) (ivp : Bool) (ivlen klen : Byte) (p q : Ports),
    (klen.toNat = 16 ∧ (ivp = false ∨ ivlen.toNat = 8) → p.keyin = q.keyin ∧ (ivp = true → p.ivin = q.ivin)) →
    ∃ t : State, exec (.construct ivp ivlen klen) { s with ports := p } = .next { t with ports := p } ∧
      exec (.construct ivp ivlen klen) { s with ports := q } = .next { t with ports := q }) ∧
  (∀ (s : State) (p q : Ports),
    ∃ t : State, exec .start { s with ports := p } = .next { t with ports := p } ∧
      exec .start { s with ports := q } = .next { t with ports := q }) ∧
  (∀ (s : State) (ivlen ivlen' klen : Byte),
    exec (.construct false ivlen klen) s = exec (.construct false ivlen' klen) s)
end

