-- ==== Sys2Proof/Laws/Decode.lean ====
section
/-! SUPPORT. The command rows and fields as arithmetic on the number of a word, and the number of an encoded word:
with these, a statement about decoding is one about quotients and remainders. -/

namespace Sys2Proof

/-- Masking off the low `k` bits of a 32-bit number. -/
theorem and_high_mask (x k : Nat) (hx : x < 2 ^ 32) (hk : k ≤ 32) :
    x &&& ((2 ^ (32 - k) - 1) <<< k) = x / 2 ^ k * 2 ^ k := by
  rw [← Nat.shiftRight_eq_div_pow, ← Nat.shiftLeft_eq]
  apply Nat.eq_of_testBit_eq
  intro i
  rw [Nat.testBit_and, Nat.testBit_shiftLeft, Nat.testBit_two_pow_sub_one, Nat.testBit_shiftLeft,
    Nat.testBit_shiftRight]
  by_cases h1 : k ≤ i
  · by_cases h2 : i < 32
    · have h3 : i - k < 32 - k := by omega
      have h4 : k + (i - k) = i := by omega
      simp [h1, h3, h4]
    · have h3 : x.testBit i = false :=
        Nat.testBit_lt_two_pow (Nat.lt_of_lt_of_le hx (Nat.pow_le_pow_right (by decide) (by omega)))
      have h4 : k + (i - k) = i := by omega
      simp [h3, h4]
  · simp [h1]

theorem holds_iff (r : CmdRow) (w : Word) : r.holds w = true ↔ w.toNat &&& r.mask.toNat = r.pattern.toNat := by
  rw [CmdRow.holds, decide_eq_true_eq, ← BitVec.toNat_inj, BitVec.toNat_and]

theorem constructRow_holds (w : Word) : constructRow.holds w = true ↔ w.toNat / 2 ^ 17 = 2048 := by
  have h := and_high_mask w.toNat 17 w.isLt (by decide)
  rw [holds_iff]
  change w.toNat &&& (2 ^ (32 - 17) - 1) <<< 17 = 268435456 ↔ _
  rw [h]; omega

theorem startRow_holds (w : Word) : startRow.holds w = true ↔ w.toNat = 536870912 := by
  have h := and_high_mask w.toNat 0 w.isLt (by decide)
  rw [holds_iff]
  change w.toNat &&& (2 ^ (32 - 0) - 1) <<< 0 = 536870912 ↔ _
  rw [h]; omega

theorem blockRow_holds (w : Word) : blockRow.holds w = true ↔ w.toNat / 2 ^ 5 = 25165824 := by
  have h := and_high_mask w.toNat 5 w.isLt (by decide)
  rw [holds_iff]
  change w.toNat &&& (2 ^ (32 - 5) - 1) <<< 5 = 805306368 ↔ _
  rw [h]; omega

/-- A bit field as a quotient and a remainder. -/
theorem extractLsb'_toNat (w : Word) (start len : Nat) :
    (w.extractLsb' start len).toNat = w.toNat / 2 ^ start % 2 ^ len := by
  rw [BitVec.extractLsb'_toNat, Nat.shiftRight_eq_div_pow]

theorem ivpField_iff (w : Word) : ivpField w = true ↔ w.toNat / 2 ^ 16 % 2 = 1 := by
  rw [ivpField, ← BitVec.testBit_toNat, Nat.testBit_eq_decide_div_mod_eq, decide_eq_true_eq]

/-- The number of an encoded CONSTRUCT. -/
theorem construct_word_toNat (ivp : Bool) (ivlen klen : Byte) :
    (0b0001#4 ++ 0#11 ++ BitVec.ofBool ivp ++ ivlen ++ klen : BitVec (4 + 11 + 1 + 8 + 8)).toNat =
      268435456 + ivp.toNat * 65536 + ivlen.toNat * 256 + klen.toNat := by
  have h1 := ivlen.isLt
  have h2 := klen.isLt
  have h3 := Bool.toNat_le ivp
  simp only [BitVec.toNat_append, BitVec.toNat_ofBool]
  rw [← Nat.shiftLeft_add_eq_or_of_lt (by omega), ← Nat.shiftLeft_add_eq_or_of_lt (by omega),
    ← Nat.shiftLeft_add_eq_or_of_lt (by omega)]
  have e : (1 % 2 ^ 4 * 2 ^ 11 ||| 0 % 2 ^ 11) = 2048 := by decide
  simp only [Nat.shiftLeft_eq, BitVec.toNat_ofNat, e]
  omega

/-- The number of an encoded BLOCK. -/
theorem block_word_toNat (n : BitVec 5) :
    (0b0011#4 ++ 0#23 ++ n : BitVec (4 + 23 + 5)).toNat = 805306368 + n.toNat := by
  have h := n.isLt
  simp only [BitVec.toNat_append]
  rw [← Nat.shiftLeft_add_eq_or_of_lt (by omega)]
  have e : (3 % 2 ^ 4 * 2 ^ 23 ||| 0 % 2 ^ 23) = 25165824 := by decide
  simp only [Nat.shiftLeft_eq, BitVec.toNat_ofNat, e]

/-- What a command word decodes to, by the number of the word. -/
theorem decodeCommand_cases (w : Word) :
    (w.toNat / 2 ^ 17 = 2048 ∧ decodeCommand w = .ok (.construct (ivpField w) (ivlenField w) (klenField w))) ∨
    (w.toNat = 536870912 ∧ decodeCommand w = .ok .start) ∨
    (w.toNat / 2 ^ 5 = 25165824 ∧ decodeCommand w = .ok (.block (nField w))) ∨
    (w.toNat / 2 ^ 17 ≠ 2048 ∧ w.toNat ≠ 536870912 ∧ w.toNat / 2 ^ 5 ≠ 25165824 ∧
      decodeCommand w = .error (rejectReason w)) := by
  by_cases h1 : w.toNat / 2 ^ 17 = 2048
  · exact .inl ⟨h1, if_pos ((constructRow_holds w).2 h1)⟩
  · have n1 : ¬ constructRow.holds w = true := fun h => h1 ((constructRow_holds w).1 h)
    by_cases h2 : w.toNat = 536870912
    · exact .inr (.inl ⟨h2, by rw [decodeCommand, if_neg n1, if_pos ((startRow_holds w).2 h2)]⟩)
    · have n2 : ¬ startRow.holds w = true := fun h => h2 ((startRow_holds w).1 h)
      by_cases h3 : w.toNat / 2 ^ 5 = 25165824
      · exact .inr (.inr (.inl ⟨h3, by rw [decodeCommand, if_neg n1, if_neg n2, if_pos ((blockRow_holds w).2 h3)]⟩))
      · have n3 : ¬ blockRow.holds w = true := fun h => h3 ((blockRow_holds w).1 h)
        exact .inr (.inr (.inr ⟨h1, h2, h3, by rw [decodeCommand, if_neg n1, if_neg n2, if_neg n3]⟩))

end Sys2Proof
end

