-- ==== Sys2Proof/Laws/State.lean ====
section
/-! SUPPORT. One lemma per field per update of State (Machine/Ops.lean), so that no proof unfolds a record update. -/

namespace Sys2Proof.Machine

variable (s : State)

/-! ### setCipher -/

@[simp] theorem setCipher_x (k : CipherState) : (s.setCipher k).x = k.x := rfl
@[simp] theorem setCipher_c (k : CipherState) : (s.setCipher k).c = k.c := rfl
@[simp] theorem setCipher_b (k : CipherState) : (s.setCipher k).b = k.b := rfl
@[simp] theorem setCipher_K (k : CipherState) : (s.setCipher k).K = s.K := rfl
@[simp] theorem setCipher_IV (k : CipherState) : (s.setCipher k).IV = s.IV := rfl
@[simp] theorem setCipher_ivp (k : CipherState) : (s.setCipher k).ivp = s.ivp := rfl
@[simp] theorem setCipher_phase (k : CipherState) : (s.setCipher k).phase = s.phase := rfl
@[simp] theorem setCipher_cnt (k : CipherState) : (s.setCipher k).cnt = s.cnt := rfl
@[simp] theorem setCipher_last (k : CipherState) : (s.setCipher k).last = s.last := rfl
@[simp] theorem setCipher_ekey (k : CipherState) : (s.setCipher k).ekey = s.ekey := rfl
@[simp] theorem setCipher_eiv (k : CipherState) : (s.setCipher k).eiv = s.eiv := rfl
@[simp] theorem setCipher_eproto (k : CipherState) : (s.setCipher k).eproto = s.eproto := rfl
@[simp] theorem setCipher_dout (k : CipherState) : (s.setCipher k).dout = s.dout := rfl
@[simp] theorem setCipher_doutn (k : CipherState) : (s.setCipher k).doutn = s.doutn := rfl
@[simp] theorem setCipher_ports (k : CipherState) : (s.setCipher k).ports = s.ports := rfl
@[simp] theorem setCipher_script (k : CipherState) : (s.setCipher k).script = s.script := rfl

/-! ### setPhase -/

@[simp] theorem setPhase_x (p : Phase) : (s.setPhase p).x = s.x := rfl
@[simp] theorem setPhase_c (p : Phase) : (s.setPhase p).c = s.c := rfl
@[simp] theorem setPhase_b (p : Phase) : (s.setPhase p).b = s.b := rfl
@[simp] theorem setPhase_K (p : Phase) : (s.setPhase p).K = s.K := rfl
@[simp] theorem setPhase_IV (p : Phase) : (s.setPhase p).IV = s.IV := rfl
@[simp] theorem setPhase_ivp (p : Phase) : (s.setPhase p).ivp = s.ivp := rfl
@[simp] theorem setPhase_phase (p : Phase) : (s.setPhase p).phase = p := rfl
@[simp] theorem setPhase_cnt (p : Phase) : (s.setPhase p).cnt = s.cnt := rfl
@[simp] theorem setPhase_last (p : Phase) : (s.setPhase p).last = s.last := rfl
@[simp] theorem setPhase_ekey (p : Phase) : (s.setPhase p).ekey = s.ekey := rfl
@[simp] theorem setPhase_eiv (p : Phase) : (s.setPhase p).eiv = s.eiv := rfl
@[simp] theorem setPhase_eproto (p : Phase) : (s.setPhase p).eproto = s.eproto := rfl
@[simp] theorem setPhase_dout (p : Phase) : (s.setPhase p).dout = s.dout := rfl
@[simp] theorem setPhase_doutn (p : Phase) : (s.setPhase p).doutn = s.doutn := rfl
@[simp] theorem setPhase_ports (p : Phase) : (s.setPhase p).ports = s.ports := rfl
@[simp] theorem setPhase_script (p : Phase) : (s.setPhase p).script = s.script := rfl

/-! ### setCnt -/

@[simp] theorem setCnt_x (n : BitVec 2) : (s.setCnt n).x = s.x := rfl
@[simp] theorem setCnt_c (n : BitVec 2) : (s.setCnt n).c = s.c := rfl
@[simp] theorem setCnt_b (n : BitVec 2) : (s.setCnt n).b = s.b := rfl
@[simp] theorem setCnt_K (n : BitVec 2) : (s.setCnt n).K = s.K := rfl
@[simp] theorem setCnt_IV (n : BitVec 2) : (s.setCnt n).IV = s.IV := rfl
@[simp] theorem setCnt_ivp (n : BitVec 2) : (s.setCnt n).ivp = s.ivp := rfl
@[simp] theorem setCnt_phase (n : BitVec 2) : (s.setCnt n).phase = s.phase := rfl
@[simp] theorem setCnt_cnt (n : BitVec 2) : (s.setCnt n).cnt = n := rfl
@[simp] theorem setCnt_last (n : BitVec 2) : (s.setCnt n).last = s.last := rfl
@[simp] theorem setCnt_ekey (n : BitVec 2) : (s.setCnt n).ekey = s.ekey := rfl
@[simp] theorem setCnt_eiv (n : BitVec 2) : (s.setCnt n).eiv = s.eiv := rfl
@[simp] theorem setCnt_eproto (n : BitVec 2) : (s.setCnt n).eproto = s.eproto := rfl
@[simp] theorem setCnt_dout (n : BitVec 2) : (s.setCnt n).dout = s.dout := rfl
@[simp] theorem setCnt_doutn (n : BitVec 2) : (s.setCnt n).doutn = s.doutn := rfl
@[simp] theorem setCnt_ports (n : BitVec 2) : (s.setCnt n).ports = s.ports := rfl
@[simp] theorem setCnt_script (n : BitVec 2) : (s.setCnt n).script = s.script := rfl

/-! ### setOutput -/

@[simp] theorem setOutput_x (d : Vec Byte 16) (n : BitVec 5) : (s.setOutput d n).x = s.x := rfl
@[simp] theorem setOutput_c (d : Vec Byte 16) (n : BitVec 5) : (s.setOutput d n).c = s.c := rfl
@[simp] theorem setOutput_b (d : Vec Byte 16) (n : BitVec 5) : (s.setOutput d n).b = s.b := rfl
@[simp] theorem setOutput_K (d : Vec Byte 16) (n : BitVec 5) : (s.setOutput d n).K = s.K := rfl
@[simp] theorem setOutput_IV (d : Vec Byte 16) (n : BitVec 5) : (s.setOutput d n).IV = s.IV := rfl
@[simp] theorem setOutput_ivp (d : Vec Byte 16) (n : BitVec 5) : (s.setOutput d n).ivp = s.ivp := rfl
@[simp] theorem setOutput_phase (d : Vec Byte 16) (n : BitVec 5) : (s.setOutput d n).phase = s.phase := rfl
@[simp] theorem setOutput_cnt (d : Vec Byte 16) (n : BitVec 5) : (s.setOutput d n).cnt = s.cnt := rfl
@[simp] theorem setOutput_last (d : Vec Byte 16) (n : BitVec 5) : (s.setOutput d n).last = s.last := rfl
@[simp] theorem setOutput_ekey (d : Vec Byte 16) (n : BitVec 5) : (s.setOutput d n).ekey = s.ekey := rfl
@[simp] theorem setOutput_eiv (d : Vec Byte 16) (n : BitVec 5) : (s.setOutput d n).eiv = s.eiv := rfl
@[simp] theorem setOutput_eproto (d : Vec Byte 16) (n : BitVec 5) : (s.setOutput d n).eproto = s.eproto := rfl
@[simp] theorem setOutput_dout (d : Vec Byte 16) (n : BitVec 5) : (s.setOutput d n).dout = d := rfl
@[simp] theorem setOutput_doutn (d : Vec Byte 16) (n : BitVec 5) : (s.setOutput d n).doutn = n := rfl
@[simp] theorem setOutput_ports (d : Vec Byte 16) (n : BitVec 5) : (s.setOutput d n).ports = s.ports := rfl
@[simp] theorem setOutput_script (d : Vec Byte 16) (n : BitVec 5) : (s.setOutput d n).script = s.script := rfl

/-! ### clearOutput -/

@[simp] theorem clearOutput_x : s.clearOutput.x = s.x := rfl
@[simp] theorem clearOutput_c : s.clearOutput.c = s.c := rfl
@[simp] theorem clearOutput_b : s.clearOutput.b = s.b := rfl
@[simp] theorem clearOutput_K : s.clearOutput.K = s.K := rfl
@[simp] theorem clearOutput_IV : s.clearOutput.IV = s.IV := rfl
@[simp] theorem clearOutput_ivp : s.clearOutput.ivp = s.ivp := rfl
@[simp] theorem clearOutput_phase : s.clearOutput.phase = s.phase := rfl
@[simp] theorem clearOutput_cnt : s.clearOutput.cnt = s.cnt := rfl
@[simp] theorem clearOutput_last : s.clearOutput.last = s.last := rfl
@[simp] theorem clearOutput_ekey : s.clearOutput.ekey = s.ekey := rfl
@[simp] theorem clearOutput_eiv : s.clearOutput.eiv = s.eiv := rfl
@[simp] theorem clearOutput_eproto : s.clearOutput.eproto = s.eproto := rfl
@[simp] theorem clearOutput_dout : s.clearOutput.dout = Vec.fill 16 0#8 := rfl
@[simp] theorem clearOutput_doutn : s.clearOutput.doutn = 0#5 := rfl
@[simp] theorem clearOutput_ports : s.clearOutput.ports = s.ports := rfl
@[simp] theorem clearOutput_script : s.clearOutput.script = s.script := rfl

/-! ### latch -/

@[simp] theorem latch_x (key : Vec Byte 16) (p : Bool) (iv : Vec Byte 8) : (s.latch key p iv).x = s.x := rfl
@[simp] theorem latch_c (key : Vec Byte 16) (p : Bool) (iv : Vec Byte 8) : (s.latch key p iv).c = s.c := rfl
@[simp] theorem latch_b (key : Vec Byte 16) (p : Bool) (iv : Vec Byte 8) : (s.latch key p iv).b = s.b := rfl
@[simp] theorem latch_K (key : Vec Byte 16) (p : Bool) (iv : Vec Byte 8) : (s.latch key p iv).K = key := rfl
@[simp] theorem latch_IV (key : Vec Byte 16) (p : Bool) (iv : Vec Byte 8) : (s.latch key p iv).IV = if p then iv else s.IV := rfl
@[simp] theorem latch_ivp (key : Vec Byte 16) (p : Bool) (iv : Vec Byte 8) : (s.latch key p iv).ivp = p := rfl
@[simp] theorem latch_phase (key : Vec Byte 16) (p : Bool) (iv : Vec Byte 8) : (s.latch key p iv).phase = s.phase := rfl
@[simp] theorem latch_cnt (key : Vec Byte 16) (p : Bool) (iv : Vec Byte 8) : (s.latch key p iv).cnt = s.cnt := rfl
@[simp] theorem latch_last (key : Vec Byte 16) (p : Bool) (iv : Vec Byte 8) : (s.latch key p iv).last = s.last := rfl
@[simp] theorem latch_ekey (key : Vec Byte 16) (p : Bool) (iv : Vec Byte 8) : (s.latch key p iv).ekey = s.ekey := rfl
@[simp] theorem latch_eiv (key : Vec Byte 16) (p : Bool) (iv : Vec Byte 8) : (s.latch key p iv).eiv = s.eiv := rfl
@[simp] theorem latch_eproto (key : Vec Byte 16) (p : Bool) (iv : Vec Byte 8) : (s.latch key p iv).eproto = s.eproto := rfl
@[simp] theorem latch_dout (key : Vec Byte 16) (p : Bool) (iv : Vec Byte 8) : (s.latch key p iv).dout = s.dout := rfl
@[simp] theorem latch_doutn (key : Vec Byte 16) (p : Bool) (iv : Vec Byte 8) : (s.latch key p iv).doutn = s.doutn := rfl
@[simp] theorem latch_ports (key : Vec Byte 16) (p : Bool) (iv : Vec Byte 8) : (s.latch key p iv).ports = s.ports := rfl
@[simp] theorem latch_script (key : Vec Byte 16) (p : Bool) (iv : Vec Byte 8) : (s.latch key p iv).script = s.script := rfl

/-! ### setLast -/

@[simp] theorem setLast_x (f : Bool) : (s.setLast f).x = s.x := rfl
@[simp] theorem setLast_c (f : Bool) : (s.setLast f).c = s.c := rfl
@[simp] theorem setLast_b (f : Bool) : (s.setLast f).b = s.b := rfl
@[simp] theorem setLast_K (f : Bool) : (s.setLast f).K = s.K := rfl
@[simp] theorem setLast_IV (f : Bool) : (s.setLast f).IV = s.IV := rfl
@[simp] theorem setLast_ivp (f : Bool) : (s.setLast f).ivp = s.ivp := rfl
@[simp] theorem setLast_phase (f : Bool) : (s.setLast f).phase = s.phase := rfl
@[simp] theorem setLast_cnt (f : Bool) : (s.setLast f).cnt = s.cnt := rfl
@[simp] theorem setLast_last (f : Bool) : (s.setLast f).last = f := rfl
@[simp] theorem setLast_ekey (f : Bool) : (s.setLast f).ekey = s.ekey := rfl
@[simp] theorem setLast_eiv (f : Bool) : (s.setLast f).eiv = s.eiv := rfl
@[simp] theorem setLast_eproto (f : Bool) : (s.setLast f).eproto = s.eproto := rfl
@[simp] theorem setLast_dout (f : Bool) : (s.setLast f).dout = s.dout := rfl
@[simp] theorem setLast_doutn (f : Bool) : (s.setLast f).doutn = s.doutn := rfl
@[simp] theorem setLast_ports (f : Bool) : (s.setLast f).ports = s.ports := rfl
@[simp] theorem setLast_script (f : Bool) : (s.setLast f).script = s.script := rfl

/-! ### clearFaults -/

@[simp] theorem clearFaults_x : s.clearFaults.x = s.x := rfl
@[simp] theorem clearFaults_c : s.clearFaults.c = s.c := rfl
@[simp] theorem clearFaults_b : s.clearFaults.b = s.b := rfl
@[simp] theorem clearFaults_K : s.clearFaults.K = s.K := rfl
@[simp] theorem clearFaults_IV : s.clearFaults.IV = s.IV := rfl
@[simp] theorem clearFaults_ivp : s.clearFaults.ivp = s.ivp := rfl
@[simp] theorem clearFaults_phase : s.clearFaults.phase = s.phase := rfl
@[simp] theorem clearFaults_cnt : s.clearFaults.cnt = s.cnt := rfl
@[simp] theorem clearFaults_last : s.clearFaults.last = s.last := rfl
@[simp] theorem clearFaults_ekey : s.clearFaults.ekey = false := rfl
@[simp] theorem clearFaults_eiv : s.clearFaults.eiv = false := rfl
@[simp] theorem clearFaults_eproto : s.clearFaults.eproto = false := rfl
@[simp] theorem clearFaults_dout : s.clearFaults.dout = s.dout := rfl
@[simp] theorem clearFaults_doutn : s.clearFaults.doutn = s.doutn := rfl
@[simp] theorem clearFaults_ports : s.clearFaults.ports = s.ports := rfl
@[simp] theorem clearFaults_script : s.clearFaults.script = s.script := rfl

/-! ### raise: only its flag, and the phase for the two length faults -/

@[simp] theorem raise_x (q : Cause) : (s.raise q).x = s.x := by cases q <;> rfl
@[simp] theorem raise_c (q : Cause) : (s.raise q).c = s.c := by cases q <;> rfl
@[simp] theorem raise_b (q : Cause) : (s.raise q).b = s.b := by cases q <;> rfl
@[simp] theorem raise_K (q : Cause) : (s.raise q).K = s.K := by cases q <;> rfl
@[simp] theorem raise_IV (q : Cause) : (s.raise q).IV = s.IV := by cases q <;> rfl
@[simp] theorem raise_ivp (q : Cause) : (s.raise q).ivp = s.ivp := by cases q <;> rfl
@[simp] theorem raise_phase (q : Cause) : (s.raise q).phase = if q = .protocolError then s.phase else .unkeyed := by cases q <;> simp [State.raise]
@[simp] theorem raise_cnt (q : Cause) : (s.raise q).cnt = s.cnt := by cases q <;> rfl
@[simp] theorem raise_last (q : Cause) : (s.raise q).last = s.last := by cases q <;> rfl
@[simp] theorem raise_ekey (q : Cause) : (s.raise q).ekey = (s.ekey || decide (q = .invalidKeyLength)) := by cases q <;> simp [State.raise]
@[simp] theorem raise_eiv (q : Cause) : (s.raise q).eiv = (s.eiv || decide (q = .invalidIVLength)) := by cases q <;> simp [State.raise]
@[simp] theorem raise_eproto (q : Cause) : (s.raise q).eproto = (s.eproto || decide (q = .protocolError)) := by cases q <;> simp [State.raise]
@[simp] theorem raise_dout (q : Cause) : (s.raise q).dout = s.dout := by cases q <;> rfl
@[simp] theorem raise_doutn (q : Cause) : (s.raise q).doutn = s.doutn := by cases q <;> rfl
@[simp] theorem raise_ports (q : Cause) : (s.raise q).ports = s.ports := by cases q <;> rfl
@[simp] theorem raise_script (q : Cause) : (s.raise q).script = s.script := by cases q <;> rfl

/-! ### resetEngine -/

@[simp] theorem resetEngine_x : s.resetEngine.x = State.reset.x := rfl
@[simp] theorem resetEngine_c : s.resetEngine.c = State.reset.c := rfl
@[simp] theorem resetEngine_b : s.resetEngine.b = State.reset.b := rfl
@[simp] theorem resetEngine_K : s.resetEngine.K = State.reset.K := rfl
@[simp] theorem resetEngine_IV : s.resetEngine.IV = State.reset.IV := rfl
@[simp] theorem resetEngine_ivp : s.resetEngine.ivp = State.reset.ivp := rfl
@[simp] theorem resetEngine_phase : s.resetEngine.phase = State.reset.phase := rfl
@[simp] theorem resetEngine_cnt : s.resetEngine.cnt = State.reset.cnt := rfl
@[simp] theorem resetEngine_last : s.resetEngine.last = State.reset.last := rfl
@[simp] theorem resetEngine_ekey : s.resetEngine.ekey = State.reset.ekey := rfl
@[simp] theorem resetEngine_eiv : s.resetEngine.eiv = State.reset.eiv := rfl
@[simp] theorem resetEngine_eproto : s.resetEngine.eproto = State.reset.eproto := rfl
@[simp] theorem resetEngine_dout : s.resetEngine.dout = State.reset.dout := rfl
@[simp] theorem resetEngine_doutn : s.resetEngine.doutn = State.reset.doutn := rfl
@[simp] theorem resetEngine_ports : s.resetEngine.ports = s.ports := rfl
@[simp] theorem resetEngine_script : s.resetEngine.script = s.script := rfl

/-! ### hostNext and hostMove: no register of the engine -/

@[simp] theorem hostNext_x : s.hostNext.x = s.x := by unfold State.hostNext; split <;> rfl
@[simp] theorem hostNext_c : s.hostNext.c = s.c := by unfold State.hostNext; split <;> rfl
@[simp] theorem hostNext_b : s.hostNext.b = s.b := by unfold State.hostNext; split <;> rfl
@[simp] theorem hostNext_K : s.hostNext.K = s.K := by unfold State.hostNext; split <;> rfl
@[simp] theorem hostNext_IV : s.hostNext.IV = s.IV := by unfold State.hostNext; split <;> rfl
@[simp] theorem hostNext_ivp : s.hostNext.ivp = s.ivp := by unfold State.hostNext; split <;> rfl
@[simp] theorem hostNext_phase : s.hostNext.phase = s.phase := by unfold State.hostNext; split <;> rfl
@[simp] theorem hostNext_cnt : s.hostNext.cnt = s.cnt := by unfold State.hostNext; split <;> rfl
@[simp] theorem hostNext_last : s.hostNext.last = s.last := by unfold State.hostNext; split <;> rfl
@[simp] theorem hostNext_ekey : s.hostNext.ekey = s.ekey := by unfold State.hostNext; split <;> rfl
@[simp] theorem hostNext_eiv : s.hostNext.eiv = s.eiv := by unfold State.hostNext; split <;> rfl
@[simp] theorem hostNext_eproto : s.hostNext.eproto = s.eproto := by unfold State.hostNext; split <;> rfl
@[simp] theorem hostNext_dout : s.hostNext.dout = s.dout := by unfold State.hostNext; split <;> rfl
@[simp] theorem hostNext_doutn : s.hostNext.doutn = s.doutn := by unfold State.hostNext; split <;> rfl
@[simp] theorem hostMove_x (h : Bool) : (s.hostMove h).x = s.x := by cases h <;> simp [State.hostMove]
@[simp] theorem hostMove_c (h : Bool) : (s.hostMove h).c = s.c := by cases h <;> simp [State.hostMove]
@[simp] theorem hostMove_b (h : Bool) : (s.hostMove h).b = s.b := by cases h <;> simp [State.hostMove]
@[simp] theorem hostMove_K (h : Bool) : (s.hostMove h).K = s.K := by cases h <;> simp [State.hostMove]
@[simp] theorem hostMove_IV (h : Bool) : (s.hostMove h).IV = s.IV := by cases h <;> simp [State.hostMove]
@[simp] theorem hostMove_ivp (h : Bool) : (s.hostMove h).ivp = s.ivp := by cases h <;> simp [State.hostMove]
@[simp] theorem hostMove_phase (h : Bool) : (s.hostMove h).phase = s.phase := by cases h <;> simp [State.hostMove]
@[simp] theorem hostMove_cnt (h : Bool) : (s.hostMove h).cnt = s.cnt := by cases h <;> simp [State.hostMove]
@[simp] theorem hostMove_last (h : Bool) : (s.hostMove h).last = s.last := by cases h <;> simp [State.hostMove]
@[simp] theorem hostMove_ekey (h : Bool) : (s.hostMove h).ekey = s.ekey := by cases h <;> simp [State.hostMove]
@[simp] theorem hostMove_eiv (h : Bool) : (s.hostMove h).eiv = s.eiv := by cases h <;> simp [State.hostMove]
@[simp] theorem hostMove_eproto (h : Bool) : (s.hostMove h).eproto = s.eproto := by cases h <;> simp [State.hostMove]
@[simp] theorem hostMove_dout (h : Bool) : (s.hostMove h).dout = s.dout := by cases h <;> simp [State.hostMove]
@[simp] theorem hostMove_doutn (h : Bool) : (s.hostMove h).doutn = s.doutn := by cases h <;> simp [State.hostMove]

@[simp] theorem cipher_x : s.cipher.x = s.x := rfl
@[simp] theorem cipher_c : s.cipher.c = s.c := rfl
@[simp] theorem cipher_b : s.cipher.b = s.b := rfl
@[simp] theorem cipher_setCipher (k : CipherState) : (s.setCipher k).cipher = k := rfl

@[simp] theorem hostMove_true : s.hostMove true = s := rfl
@[simp] theorem hostMove_false : s.hostMove false = s.hostNext := rfl

theorem hostNext_nil (h : s.script = []) : s.hostNext = { s with ports := { s.ports with req := .none } } := by
  unfold State.hostNext; rw [h]

theorem hostNext_cons (p : Ports) (rest : List Ports) (h : s.script = p :: rest) :
    s.hostNext = { s with ports := p, script := rest } := by
  unfold State.hostNext; rw [h]

end Sys2Proof.Machine
end

