-- ==== Sys2Proof/Laws/Vec.lean ====
section
/-! SUPPORT. The small lemmas of `Vec`: what its makers hold, and that its elements determine it. -/

namespace Sys2Proof.Vec

variable {α : Type} {n : Nat}

@[simp] theorem get_ofFn (f : Fin n → α) (i : Fin n) : (ofFn f).get i = f i := by
  simp [get, ofFn]

@[simp] theorem get_fill (a : α) (i : Fin n) : (fill n a).get i = a := by
  simp [get, fill]

theorem toList_inj {v w : Vec α n} (h : v.toList = w.toList) : v = w := by
  cases v; cases w; simpa using h

theorem ext_get {v w : Vec α n} (h : ∀ i, v.get i = w.get i) : v = w := by
  apply toList_inj
  apply List.ext_getElem (by rw [v.length_eq, w.length_eq])
  intro i hv _
  exact h ⟨i, by rw [← v.length_eq]; exact hv⟩

@[simp] theorem ofFn_get (v : Vec α n) : ofFn v.get = v := ext_get fun i => by simp

theorem toList_ofFn (f : Fin n → α) : (ofFn f).toList = List.ofFn f := rfl

theorem toList_getElem (v : Vec α n) (i : Nat) (h : i < v.toList.length) :
    v.toList[i] = v.get ⟨i, by rw [← v.length_eq]; exact h⟩ := rfl

end Sys2Proof.Vec
end

