-- ==== Sys2Proof/Laws/Ops.lean ====
section
/-! SUPPORT. The shared operations, each said once: accepting a command, following an answer, the elements of the
vectors the cipher functions build, and that no meaning touches the host's side. -/

namespace Sys2Proof.Machine

@[simp] theorem andThen_next (s : State) (f : State → State) : andThen (.next s) f = .next (f s) := rfl

theorem accept_busy {s : State} (f : State → State) (h : s.phase.busy = true) : accept f s = .next s := by
  simp [accept, h]

theorem accept_ready {s : State} (f : State → State) (h : s.phase.busy = false) : accept f s = .next (f s) := by
  simp [accept, h]

/-- What a command's meaning can answer: in a busy phase the same state, else its effect. -/
theorem accept_cases {s t : State} {f : State → State} (h : accept f s = .next t) :
    (s.phase.busy = true ∧ t = s) ∨ (s.phase.busy = false ∧ t = f s) := by
  cases hb : s.phase.busy
  · exact .inr ⟨rfl, by simpa [accept, hb] using h.symm⟩
  · exact .inl ⟨rfl, by simpa [accept, hb] using h.symm⟩

@[simp] theorem busy_keyed : Phase.keyed.busy = false := rfl
@[simp] theorem busy_unkeyed : Phase.unkeyed.busy = false := rfl
@[simp] theorem busy_stream : Phase.stream.busy = false := rfl
@[simp] theorem busy_sExpand : Phase.sExpand.busy = true := rfl
@[simp] theorem busy_sWarm : Phase.sWarm.busy = true := rfl
@[simp] theorem busy_sRemix : Phase.sRemix.busy = true := rfl
@[simp] theorem busy_sIvmix : Phase.sIvmix.busy = true := rfl
@[simp] theorem busy_sIvwarm : Phase.sIvwarm.busy = true := rfl
@[simp] theorem busy_bIter : Phase.bIter.busy = true := rfl

theorem ready_iff (p : Phase) : p.busy = false ↔ p = .unkeyed ∨ p = .keyed ∨ p = .stream := by
  cases p <;> simp

/-- A warm-up step either counts on in its phase or ends the warm-up. -/
theorem warmStep_cases (s : State) (done : Phase) :
    (s.cnt = 3#2 ∧ s.warmStep done = ((s.setCipher (iter s.cipher)).setCnt 0#2).setPhase done) ∨
    (s.cnt ≠ 3#2 ∧ s.warmStep done = (s.setCipher (iter s.cipher)).setCnt (s.cnt + 1#2)) := by
  by_cases h : s.cnt = 3#2
  · exact .inl ⟨h, by simp [State.warmStep, h]⟩
  · exact .inr ⟨h, by simp [State.warmStep, h]⟩

/-- The state of a next-state answer, through the three wrappers the meanings use. -/
theorem next_inj {s t : State} : (Host.Outcome.next s : Host.Outcome State Fault Refusal) = .next t ↔ s = t := by
  constructor
  · intro h; cases h; rfl
  · rintro rfl; rfl

@[simp] theorem warmStep_ports (s : State) (done : Phase) : (s.warmStep done).ports = s.ports := by
  rcases warmStep_cases s done with ⟨_, h⟩ | ⟨_, h⟩ <;> rw [h] <;> rfl

@[simp] theorem warmStep_script (s : State) (done : Phase) : (s.warmStep done).script = s.script := by
  rcases warmStep_cases s done with ⟨_, h⟩ | ⟨_, h⟩ <;> rw [h] <;> rfl

/-! ### The effects of the commands, case by case -/

theorem badKeyLength_iff (klen : Byte) : badKeyLength klen = true ↔ klen.toNat ≠ 16 := by simp [badKeyLength]

theorem badIvLength_iff (ivp : Bool) (ivlen : Byte) :
    badIvLength ivp ivlen = true ↔ ivp = true ∧ ivlen.toNat ≠ 8 := by simp [badIvLength]

theorem legalCount_iff (n : BitVec 5) : legalCount n = true ↔ 1 ≤ n.toNat ∧ n.toNat ≤ 16 := by simp [legalCount]

theorem isShort_iff (n : BitVec 5) : isShort n = true ↔ n.toNat < 16 := by simp [isShort]

/-- CONSTRUCT's three cases. -/
theorem constructEffect_cases (ivp : Bool) (ivlen klen : Byte) (s : State) :
    (klen.toNat ≠ 16 ∧ constructEffect ivp ivlen klen s = s.constructStart.raise .invalidKeyLength) ∨
    (klen.toNat = 16 ∧ ivp = true ∧ ivlen.toNat ≠ 8 ∧
      constructEffect ivp ivlen klen s = s.constructStart.raise .invalidIVLength) ∨
    (klen.toNat = 16 ∧ (ivp = false ∨ ivlen.toNat = 8) ∧
      constructEffect ivp ivlen klen s = (s.constructStart.latch s.keyin ivp s.ivin).setPhase .keyed) := by
  by_cases hk : klen.toNat = 16
  · by_cases hv : ivp = true ∧ ivlen.toNat ≠ 8
    · exact .inr (.inl ⟨hk, hv.1, hv.2, by simp [constructEffect, badKeyLength, badIvLength, hk, hv]⟩)
    · refine .inr (.inr ⟨hk, ?_, ?_⟩)
      · cases ivp <;> simp_all
      · have hv' : badIvLength ivp ivlen = false := by
          rw [Bool.eq_false_iff]; exact fun h => hv ((badIvLength_iff _ _).1 h)
        simp [constructEffect, badKeyLength, hk, hv']
  · exact .inl ⟨hk, by simp [constructEffect, badKeyLength, hk]⟩

/-- START's two cases. -/
theorem startEffect_cases (s : State) :
    ((s.phase = .keyed ∨ s.phase = .stream) ∧ startEffect s = s.clearOutput.setPhase .sExpand) ∨
    (¬ (s.phase = .keyed ∨ s.phase = .stream) ∧ startEffect s = s.raise .protocolError) := by
  by_cases h : s.phase = .keyed ∨ s.phase = .stream
  · exact .inl ⟨h, if_pos h⟩
  · exact .inr ⟨h, if_neg h⟩

/-- BLOCK's two cases. -/
theorem blockEffect_cases (n : BitVec 5) (s : State) :
    (s.phase = .stream ∧ 1 ≤ n.toNat ∧ n.toNat ≤ 16 ∧ blockEffect n s =
      ((s.setOutput (blockOutput s.din (keystream s.x) n.toNat) n).setLast (isShort n)).setPhase .bIter) ∨
    (¬ (s.phase = .stream ∧ 1 ≤ n.toNat ∧ n.toNat ≤ 16) ∧ blockEffect n s = s.raise .protocolError) := by
  by_cases h : s.phase = .stream ∧ legalCount n = true
  · exact .inl ⟨h.1, ((legalCount_iff n).1 h.2).1, ((legalCount_iff n).1 h.2).2, if_pos h⟩
  · exact .inr ⟨by rw [legalCount_iff] at h; exact h, if_neg h⟩

/-- The next state that a meaning answers with. -/
def effect (i : Instr) (s : State) : State :=
  match i with
  | .construct ivp ivlen klen => if s.phase.busy then s else constructEffect ivp ivlen klen s
  | .start => if s.phase.busy then s else startEffect s
  | .block n => if s.phase.busy then s else blockEffect n s
  | .expand => ((s.setCipher (expandKey s.K)).setCnt 0#2).setPhase .sWarm
  | .iterWarm => s.warmStep .sRemix
  | .remix => (s.setCipher (remixCounters s.cipher)).setPhase (if s.ivp then .sIvmix else .stream)
  | .ivmix => ((s.setCipher (mixIv s.IV s.cipher)).setCnt 0#2).setPhase .sIvwarm
  | .iterIvwarm => s.warmStep .stream
  | .iterBlock => (s.setCipher (iter s.cipher)).setPhase (if s.last then .keyed else .stream)

theorem exec_eq_effect (i : Instr) (s : State) : exec i s = .next (effect i s) := by cases i <;> rfl

/-- No meaning touches the ports. -/
@[simp] theorem effect_ports (i : Instr) (s : State) : (effect i s).ports = s.ports := by
  cases i with
  | construct ivp ivlen klen =>
    simp only [effect]; split
    · rfl
    · rcases constructEffect_cases ivp ivlen klen s with ⟨_, h⟩ | ⟨_, _, _, h⟩ | ⟨_, _, h⟩ <;> rw [h] <;> rfl
  | start =>
    simp only [effect]; split
    · rfl
    · rcases startEffect_cases s with ⟨_, h⟩ | ⟨_, h⟩ <;> rw [h] <;> rfl
  | block n =>
    simp only [effect]; split
    · rfl
    · rcases blockEffect_cases n s with ⟨_, _, _, h⟩ | ⟨_, h⟩ <;> rw [h] <;> rfl
  | iterWarm => exact warmStep_ports s _
  | iterIvwarm => exact warmStep_ports s _
  | expand | remix | ivmix | iterBlock => rfl

/-- No meaning touches the host's script. -/
@[simp] theorem effect_script (i : Instr) (s : State) : (effect i s).script = s.script := by
  cases i with
  | construct ivp ivlen klen =>
    simp only [effect]; split
    · rfl
    · rcases constructEffect_cases ivp ivlen klen s with ⟨_, h⟩ | ⟨_, _, _, h⟩ | ⟨_, _, h⟩ <;> rw [h] <;> rfl
  | start =>
    simp only [effect]; split
    · rfl
    · rcases startEffect_cases s with ⟨_, h⟩ | ⟨_, h⟩ <;> rw [h] <;> rfl
  | block n =>
    simp only [effect]; split
    · rfl
    · rcases blockEffect_cases n s with ⟨_, _, _, h⟩ | ⟨_, h⟩ <;> rw [h] <;> rfl
  | iterWarm => exact warmStep_script s _
  | iterIvwarm => exact warmStep_script s _
  | expand | remix | ivmix | iterBlock => rfl

/-- A micro-operation neither reads nor writes the host's side. -/
theorem effect_microOp_host (i : Instr) (s : State) (p : Ports) (l : List Ports)
    (h : ∀ w, encode i ≠ .cmd32 w) :
    effect i { s with ports := p, script := l } = { effect i s with ports := p, script := l } := by
  have warm : ∀ d, State.warmStep { s with ports := p, script := l } d =
      { s.warmStep d with ports := p, script := l } := by
    intro d
    rcases warmStep_cases s d with ⟨h1, h2⟩ | ⟨h1, h2⟩
    · rw [h2, State.warmStep, if_pos h1]; rfl
    · rw [h2, State.warmStep, if_neg h1]; rfl
  cases i with
  | construct _ _ _ => exact absurd rfl (h _)
  | start => exact absurd rfl (h _)
  | block _ => exact absurd rfl (h _)
  | iterWarm => exact warm _
  | iterIvwarm => exact warm _
  | expand | remix | ivmix | iterBlock => rfl

/-! ### Elements of the vectors the cipher functions build -/

@[simp] theorem gVector_get (k : CipherState) (i : Fin 8) :
    (gVector k).get i = gFun (add32 (k.x.get i) (k.c.get i)) := by simp [gVector]

/-- An even lane of the mixing (R58). -/
theorem mix_get_even (g : Vec Word 8) (i : Fin 8) (h : i.val % 2 = 0) :
    (mix g).get i = g.get i + rotl (g.get (i + 7)) 16 + rotl (g.get (i + 6)) 16 := by simp [mix, h, add32]

/-- An odd lane of the mixing (R58). -/
theorem mix_get_odd (g : Vec Word 8) (i : Fin 8) (h : i.val % 2 = 1) :
    (mix g).get i = g.get i + rotl (g.get (i + 7)) 8 + g.get (i + 6) := by simp [mix, h, add32]

@[simp] theorem iter_x (k : CipherState) : (iter k).x = mix (gVector k) := rfl
@[simp] theorem iter_c (k : CipherState) : (iter k).c = nextCounters k.c k.b := rfl
@[simp] theorem iter_b (k : CipherState) : (iter k).b = nextCarry k.c k.b := rfl

/-- The carry into the next lane is the carry out of this one (R62). -/
theorem carryInto_succ (c : Vec Word 8) (b : Bool) (i : Fin 8) :
    carryInto c b (i.val + 1) = carryOut (laneSum c i (carryInto c b i.val)) := by
  have hi : Fin.ofNat 8 i.val = i := by simp
  rw [carryInto, hi]

/-- A 33-bit sum is its low word and its carry. -/
theorem word_and_carry (v : BitVec 33) : (v.setWidth 32).toNat + 2 ^ 32 * (carryOut v).toNat = v.toNat := by
  have h := v.isLt
  rw [carryOut, BitVec.toNat_setWidth, ← BitVec.testBit_toNat, Nat.testBit_eq_decide_div_mod_eq]
  by_cases h2 : v.toNat / 2 ^ 32 % 2 = 1
  · rw [decide_eq_true h2, Bool.toNat_true]; omega
  · rw [decide_eq_false h2, Bool.toNat_false]; omega

theorem laneSum_toNat (c : Vec Word 8) (i : Fin 8) (carry : Bool) :
    (laneSum c i carry).toNat = (c.get i).toNat + (counterConstants.get i).toNat + carry.toNat := by
  have h1 := (c.get i).isLt
  have h2 := (counterConstants.get i).isLt
  have h3 := Bool.toNat_le carry
  simp only [laneSum, BitVec.toNat_add, BitVec.toNat_setWidth, BitVec.toNat_ofBool]
  omega

/-- One lane of the counter update, exactly: the new word and the carry out make up the sum (R62). -/
theorem lane_exact (c : Vec Word 8) (b : Bool) (i : Fin 8) :
    ((nextCounters c b).get i).toNat + 2 ^ 32 * (carryInto c b (i.val + 1)).toNat =
      (c.get i).toNat + (counterConstants.get i).toNat + (carryInto c b i.val).toNat := by
  rw [carryInto_succ, nextCounters, Vec.get_ofFn, word_and_carry, laneSum_toNat]

@[simp] theorem nextCounters_get (c : Vec Word 8) (b : Bool) (i : Fin 8) :
    (nextCounters c b).get i = (laneSum c i (carryInto c b i.val)).setWidth 32 := by simp [nextCounters]

@[simp] theorem blockOutput_get (d ks : Vec Byte 16) (n : Nat) (j : Fin 16) :
    (blockOutput d ks n).get j = if j.val < n then d.get j ^^^ ks.get j else 0#8 := by simp [blockOutput]

@[simp] theorem remixCounters_x (k : CipherState) : (remixCounters k).x = k.x := rfl
@[simp] theorem remixCounters_b (k : CipherState) : (remixCounters k).b = k.b := rfl
@[simp] theorem remixCounters_c_get (k : CipherState) (i : Fin 8) :
    (remixCounters k).c.get i = k.c.get i ^^^ k.x.get (i + 4) := by simp [remixCounters]

@[simp] theorem mixIv_x (IV : Vec Byte 8) (k : CipherState) : (mixIv IV k).x = k.x := rfl
@[simp] theorem mixIv_b (IV : Vec Byte 8) (k : CipherState) : (mixIv IV k).b = k.b := rfl
@[simp] theorem mixIv_c_get (IV : Vec Byte 8) (k : CipherState) (i : Fin 8) :
    (mixIv IV k).c.get i = k.c.get i ^^^ ivMask IV i := by simp [mixIv]

/-- Two halves joined as R49 joins them are the two appended, high half first. -/
theorem joinHalves_eq (hi lo : Half) : joinHalves hi lo = hi ++ lo := by
  apply BitVec.eq_of_toNat_eq
  have e : (hi ++ lo : BitVec (16 + 16)).toNat = hi.toNat <<< 16 ||| lo.toNat := BitVec.toNat_append ..
  refine Eq.trans ?_ e.symm
  have h1 := hi.isLt
  have h2 := lo.isLt
  simp only [joinHalves, BitVec.toNat_or, BitVec.toNat_shiftLeft, BitVec.toNat_setWidth]
  rw [Nat.mod_eq_of_lt (a := hi.toNat) (by omega), Nat.mod_eq_of_lt (a := lo.toNat) (by omega), Nat.mod_eq_of_lt]
  rw [Nat.shiftLeft_eq]; omega

/-- A rotation as R7 writes it is the bit vector's own. -/
theorem rotl_eq (v : Word) (n : Nat) (h : n < 32) : rotl v n = v.rotateLeft n := by
  simp [rotl, BitVec.rotateLeft, BitVec.rotateLeftAux, Nat.mod_eq_of_lt h]

end Sys2Proof.Machine
end

