-- ==== Sys2Proof/Laws/HostProgram.lean ====
section
/-! SUPPORT. What a host line puts on the ports: the count of a BLOCK line, and each byte of a port. -/

namespace Sys2Proof.Machine

/-- The count a BLOCK line claims, as a number: its length, 31 standing for all above. -/
theorem claimedCount_toNat (bytes : List Byte) : (claimedCount bytes).toNat = min bytes.length 31 := by
  rw [claimedCount, BitVec.toNat_ofNat, Nat.mod_eq_of_lt (by omega)]

/-- A BLOCK line claims a legal count exactly when it has 1 to 16 bytes (R44), and then it is their number. -/
theorem claimedCount_legal_iff (bytes : List Byte) :
    legalCount (claimedCount bytes) = true ↔ 1 ≤ bytes.length ∧ bytes.length ≤ 16 := by
  rw [legalCount_iff, claimedCount_toNat]; omega

/-- Byte `j` of a port: the buffer's, or what stands there otherwise (R22, R39). -/
@[simp] theorem onPort_get {n : Nat} (stands : Vec Byte n) (buf : List Byte) (j : Fin n) :
    (onPort stands buf).get j = buf.getD j.val (stands.get j) := by simp [onPort]

end Sys2Proof.Machine
end

