-- ==== Sys2Proof/Laws/PerInstr.lean ====
section
/-! SUPPORT. The family TableRow: every instruction's encoding lies in its row of spec/opcode_table.json, by the
row's match and mask (CMD32) or its 4-bit code (UOP4), whatever the operands are. -/

namespace Sys2Proof.Laws.TableRow

/-- The code is a command word with `(word & mask) = match`. -/
def InCmdRow (code : Code) (pattern mask : Word) : Prop := ∃ w, code = .cmd32 w ∧ w &&& mask = pattern

/-- The row of the instruction in spec/opcode_table.json. -/
def Statement : Instr → Prop
  | .construct ivp ivlen klen => InCmdRow (encode (.construct ivp ivlen klen)) 0x10000000#32 0xFFFE0000#32
  | .start => InCmdRow (encode .start) 0x20000000#32 0xFFFFFFFF#32
  | .block n => InCmdRow (encode (.block n)) 0x30000000#32 0xFFFFFFE0#32
  | .expand => encode .expand = .uop4 0b0010#4
  | .iterWarm => encode .iterWarm = .uop4 0b0011#4
  | .remix => encode .remix = .uop4 0b0100#4
  | .ivmix => encode .ivmix = .uop4 0b0101#4
  | .iterIvwarm => encode .iterIvwarm = .uop4 0b0110#4
  | .iterBlock => encode .iterBlock = .uop4 0b1000#4

theorem construct (ivp : Bool) (ivlen klen : Byte) : Statement (.construct ivp ivlen klen) := by
  refine ⟨_, rfl, ?_⟩
  have h := (constructRow_holds (0b0001#4 ++ 0#11 ++ BitVec.ofBool ivp ++ ivlen ++ klen)).2 (by
    have e := construct_word_toNat ivp ivlen klen
    have h1 := ivlen.isLt
    have h2 := klen.isLt
    have h3 := Bool.toNat_le ivp
    rw [e]; omega)
  exact of_decide_eq_true h
theorem start : Statement .start := ⟨_, rfl, rfl⟩
theorem block (n : BitVec 5) : Statement (.block n) := by
  refine ⟨_, rfl, ?_⟩
  have h := (blockRow_holds (0b0011#4 ++ 0#23 ++ n)).2 (by
    have e := block_word_toNat n
    have h := n.isLt
    rw [e]; omega)
  exact of_decide_eq_true h
theorem expand : Statement .expand := rfl
theorem iterWarm : Statement .iterWarm := rfl
theorem remix : Statement .remix := rfl
theorem ivmix : Statement .ivmix := rfl
theorem iterIvwarm : Statement .iterIvwarm := rfl
theorem iterBlock : Statement .iterBlock := rfl

end Sys2Proof.Laws.TableRow
end

