-- ==== Sys2Proof/Laws/Step.lean ====
section
/-! SUPPORT. What a step can be: one equation for each kind of event, and the inversion lemma. -/

namespace Sys2Proof.Machine

/-- A busy phase selects the micro-operation of its code. -/
def Phase.microOp : Phase → Option Instr
  | .sExpand => some .expand
  | .sWarm => some .iterWarm
  | .sRemix => some .remix
  | .sIvmix => some .ivmix
  | .sIvwarm => some .iterIvwarm
  | .bIter => some .iterBlock
  | .unkeyed => none
  | .keyed => none
  | .stream => none

theorem microOp_iff (p : Phase) (i : Instr) : decodeMicroOp p.code = .ok i ↔ p.microOp = some i := by
  cases p <;> simp [Phase.code, Phase.microOp, decodeMicroOp]

theorem microOp_of_busy (p : Phase) (h : p.busy = true) : ∃ i, p.microOp = some i := by
  cases p <;> simp_all [Phase.microOp]

theorem busy_of_microOp (p : Phase) (i : Instr) (h : p.microOp = some i) : p.busy = true := by
  cases p <;> simp_all [Phase.microOp]

theorem step_reset {s : State} (h : s.ports.req = .reset) : step s = .next s.resetEngine.hostNext := by
  simp [step, engineStep, State.event, State.holdsCommand, h]

theorem step_micro_quiet {s : State} {i : Instr} (hr : s.ports.req = .none) (hm : s.phase.microOp = some i) :
    step s = .next (effect i s).hostNext := by
  have hb := busy_of_microOp _ _ hm
  have hd := (microOp_iff _ _).2 hm
  simp [step, engineStep, State.event, State.eventNoReset, State.holdsCommand, hr, hb, hd, exec_eq_effect]

theorem step_micro_held {s : State} {i : Instr} {w : Word} (hr : s.ports.req = .command w)
    (hm : s.phase.microOp = some i) : step s = .next (effect i s) := by
  have hb := busy_of_microOp _ _ hm
  have hd := (microOp_iff _ _).2 hm
  simp [step, engineStep, State.event, State.eventNoReset, State.holdsCommand, hr, hb, hd, exec_eq_effect]

theorem step_command {s : State} {i : Instr} {w : Word} (hr : s.ports.req = .command w)
    (hb : s.phase.busy = false) (hd : decodeCommand w = .ok i) : step s = .next (effect i s).hostNext := by
  simp [step, engineStep, State.event, State.eventNoReset, State.holdsCommand, hr, hb, hd, exec_eq_effect]

theorem step_reserved {s : State} {e : Reject} {w : Word} (hr : s.ports.req = .command w)
    (hb : s.phase.busy = false) (hd : decodeCommand w = .error e) :
    step s = .next (s.raise .protocolError).hostNext := by
  simp [step, engineStep, State.event, State.eventNoReset, State.holdsCommand, hr, hb, hd, State.rejectWord]

theorem step_idle {s : State} (hr : s.ports.req = .none) (hb : s.phase.busy = false) :
    step s = .next s.hostNext := by
  simp [step, engineStep, State.event, State.eventNoReset, State.holdsCommand, hr, hb]

/-- Everything a step can be: a reset, a wait, a reserved word, an accepted command, or a micro-step (with or without
a command held on the ports). -/
theorem step_cases (s : State) :
    (s.ports.req = .reset ∧ step s = .next s.resetEngine.hostNext) ∨
    (s.ports.req = .none ∧ s.phase.busy = false ∧ step s = .next s.hostNext) ∨
    (∃ w e, s.ports.req = .command w ∧ s.phase.busy = false ∧ decodeCommand w = .error e ∧
      step s = .next (s.raise .protocolError).hostNext) ∨
    (∃ w i, s.ports.req = .command w ∧ s.phase.busy = false ∧ decodeCommand w = .ok i ∧
      step s = .next (effect i s).hostNext) ∨
    (∃ i, s.ports.req ≠ .reset ∧ s.phase.microOp = some i ∧
      (step s = .next (effect i s).hostNext ∨ step s = .next (effect i s))) := by
  cases hr : s.ports.req with
  | reset => exact .inl ⟨rfl, step_reset hr⟩
  | none =>
    cases hb : s.phase.busy with
    | false => exact .inr (.inl ⟨rfl, rfl, step_idle hr hb⟩)
    | true =>
      obtain ⟨i, hm⟩ := microOp_of_busy _ hb
      exact .inr (.inr (.inr (.inr ⟨i, by simp, hm, .inl (step_micro_quiet hr hm)⟩)))
  | command w =>
    cases hb : s.phase.busy with
    | false =>
      cases hd : decodeCommand w with
      | error e => exact .inr (.inr (.inl ⟨w, e, rfl, rfl, hd, step_reserved hr hb hd⟩))
      | ok i => exact .inr (.inr (.inr (.inl ⟨w, i, rfl, rfl, hd, step_command hr hb hd⟩)))
    | true =>
      obtain ⟨i, hm⟩ := microOp_of_busy _ hb
      exact .inr (.inr (.inr (.inr ⟨i, by simp, hm, .inr (step_micro_held hr hm)⟩)))

end Sys2Proof.Machine
end

