-- ==== Sys2Proof/Tests/Slice0.lean ====
section
/-! SUPPORT. The model's own tests, expected values from the tables of spec/95_test_vectors.md and the examples of the
rules; and for every obligation with hypotheses a theorem `witness_<Obligation>` that shows states meeting them. -/

namespace Sys2Proof.Tests

open Sys2Proof Sys2Proof.Machine

/-! ### Helpers -/

/-- The reset registers in a given phase, with a request on the ports and a script to come. -/
def inPhase (p : Phase) (r : Request := .none) (script : List Ports := []) : State :=
  { State.reset with phase := p, ports := { Ports.quiet with req := r }, script := script }

/-- The state after one instruction (the reset state if it stopped, which no test expects). -/
def ran (i : Instr) (s : State) : State :=
  match exec i s with
  | .next t => t
  | .fault _ => State.reset
  | .refused _ => State.reset

/-- The bytes 0, 1, 2, ...: key A and IV A of 95_test_vectors.md. -/
def counting (n : Nat) : Vec Byte n := Vec.ofFn fun j => BitVec.ofNat 8 j.val

/-- Key B of 95_test_vectors.md. -/
def keyB : Vec Byte 16 := ⟨[0x01, 0x23, 0x45, 0x67, 0x89, 0xAB, 0xCD, 0xEF,
                            0xFE, 0xDC, 0xBA, 0x98, 0x76, 0x54, 0x32, 0x10], rfl⟩

/-- The cipher state after setup of key Z, IV Z (V-SETUP-1). -/
def openZ : CipherState :=
  ⟨⟨[0xF3212FAB, 0xEAEC480D, 0xED29E4DA, 0x7C8FD66F, 0xC4BDBF0C, 0xA394F526, 0xC3A6C2BC, 0x64F2EB0C], rfl⟩,
   ⟨[0x14D5ACB1, 0x23AB61FB, 0xB3DE897C, 0x62E79628, 0x788677EE, 0xA9BE4022, 0x41911E02, 0xD2FC9B75], rfl⟩, true⟩

/-- The cipher state after the third of the first four warm-up iterations of key Z (V-SETUP-1, WARM 3). -/
def warm3 : CipherState :=
  ⟨⟨[0x2824F5C9, 0x4A33BAD6, 0x87333564, 0x05ECE506, 0x697EEC69, 0xFF210ACB, 0xF08EB82C, 0xEECF5C87], rfl⟩,
   ⟨[0xE79E79E8, 0x79E79E79, 0x9E79E79E, 0xE79E79E7, 0x79E79E79, 0x9E79E79E, 0xE79E79E7, 0x79E79E79], rfl⟩, true⟩

/-- The cipher state after the fourth of them (V-SETUP-1, WARM 4). -/
def warm4 : CipherState :=
  ⟨⟨[0x666577EC, 0x053C3F9C, 0x386E9DF9, 0xC8F31B65, 0xD4D1124C, 0x9B425DE0, 0x33DC607B, 0x1AC705C7], rfl⟩,
   ⟨[0x34D34D36, 0x4D34D34D, 0xD34D34D3, 0x34D34D34, 0x4D34D34D, 0xD34D34D3, 0x34D34D34, 0x4D34D34D], rfl⟩, true⟩

/-- "Hello, Rabbit!" on `DIN`, with bytes after it that must not matter. -/
def hello : Vec Byte 16 := ⟨[0x48, 0x65, 0x6C, 0x6C, 0x6F, 0x2C, 0x20, 0x52,
                             0x61, 0x62, 0x62, 0x69, 0x74, 0x21, 0xAA, 0x55], rfl⟩

/-! ### WellFormed: each check with an ill-formed term that it refuses -/

theorem test_wellFormed_block_lower : Instr.wellFormed (.block 0#5) = false ∧ Instr.wellFormed (.block 1#5) = true := by
  decide

theorem test_wellFormed_block_upper :
    Instr.wellFormed (.block 17#5) = false ∧ Instr.wellFormed (.block 31#5) = false ∧
    Instr.wellFormed (.block 16#5) = true := by decide

/-! ### Decoding: words written out bit by bit from the patterns of 30_encoding.md R40, R42 -/

theorem test_decode_construct :
    decodeCommand 0b00010000000000010000100000010000#32 = .ok (.construct true 8#8 16#8) ∧
    decodeCommand 0b00010000000000001111111100010000#32 = .ok (.construct false 255#8 16#8) := ⟨rfl, rfl⟩

theorem test_decode_start : decodeCommand 0b00100000000000000000000000000000#32 = .ok .start := rfl

theorem test_decode_block :
    decodeCommand 0b00110000000000000000000000010000#32 = .ok (.block 16#5) ∧
    decodeCommand 0b00110000000000000000000000000001#32 = .ok (.block 1#5) := ⟨rfl, rfl⟩

theorem test_decode_micro_operations :
    decodeMicroOp 0b0010#4 = .ok .expand ∧ decodeMicroOp 0b0011#4 = .ok .iterWarm ∧
    decodeMicroOp 0b0100#4 = .ok .remix ∧ decodeMicroOp 0b0101#4 = .ok .ivmix ∧
    decodeMicroOp 0b0110#4 = .ok .iterIvwarm ∧ decodeMicroOp 0b1000#4 = .ok .iterBlock := ⟨rfl, rfl, rfl, rfl, rfl, rfl⟩

/-- V-CMD, the reserved words, each with the case of R41 it falls under. -/
theorem test_decode_reserved :
    decodeCommand 0x10020010#32 = .error .z1NotZero ∧ decodeCommand 0x18010810#32 = .error .z1NotZero ∧
    decodeCommand 0x20000001#32 = .error .startNotZero ∧ decodeCommand 0x20010000#32 = .error .startNotZero ∧
    decodeCommand 0x30000030#32 = .error .blockNotZero ∧ decodeCommand 0x30010010#32 = .error .blockNotZero ∧
    decodeCommand 0x00000000#32 = .error .reservedOp ∧ decodeCommand 0x40000000#32 = .error .reservedOp ∧
    decodeCommand 0xFFFFFFFF#32 = .error .reservedOp := ⟨rfl, rfl, rfl, rfl, rfl, rfl, rfl, rfl, rfl⟩

theorem test_decode_no_micro_operation :
    decodeMicroOp 0#4 = .error .noMicroOp ∧ decodeMicroOp 1#4 = .error .noMicroOp ∧
    decodeMicroOp 7#4 = .error .noMicroOp ∧ decodeMicroOp 9#4 = .error .unusedPhaseCode ∧
    decodeMicroOp 15#4 = .error .unusedPhaseCode := ⟨rfl, rfl, rfl, rfl, rfl⟩

/-- R40, R42: the encoder's words. -/
theorem test_encode :
    encode (.construct true 8#8 15#8) = .cmd32 0x1001080F#32 ∧ encode .start = .cmd32 0x20000000#32 ∧
    encode (.block 14#5) = .cmd32 0x3000000E#32 ∧ encode .iterBlock = .uop4 8#4 := by decide

/-- A word placed by `withFetchWord` is the event of the very next step, from reset. -/
theorem test_withFetchWord :
    (State.reset.withFetchWord 32 0x10010810).event = .run (.construct true 8#8 16#8) ∧
    (State.reset.withFetchWord 8 5).event = .run .ivmix ∧
    decodeTableWord 32 0x30000010 = some (.block 16#5) ∧ decodeTableWord 8 8 = some .iterBlock := by decide

/-! ### The pure functions -/

/-- V-G. -/
theorem test_gFun :
    gFun 0xFFFFFFFF#32 = 0xFFFFFFFF#32 ∧ gFun 0x00010001#32 = 0x00020000#32 ∧
    gFun 0x0000FFFF#32 = 0xFFFE0001#32 ∧ gFun 0x12345678#32 = 0x1CBFBE9C#32 ∧
    gFun 0xDEADBEEF#32 = 0xE0DC6E33#32 := by decide

/-- V-CTR, the ninth case (mixed carries). -/
theorem test_counter_mixed_carries :
    nextCounters warm4.c true = ⟨[0x82082084, 0x20820820, 0x08208208, 0x82082082,
                                  0x20820820, 0x08208208, 0x82082082, 0x20820820], rfl⟩ ∧
    nextCarry warm4.c true = true := by decide

/-- V-CTR, the fifth case: the carry in ripples through all eight lanes. -/
theorem test_counter_ripple :
    let c : Vec Word 8 := ⟨[0xB2CB2CB2, 0x2CB2CB2C, 0xCB2CB2CB, 0xB2CB2CB2,
                            0x2CB2CB2C, 0xCB2CB2CB, 0xB2CB2CB2, 0x2CB2CB2C], rfl⟩
    nextCounters c true = Vec.fill 8 0#32 ∧ nextCarry c true = true := by decide

/-- V-MIX, the second case. -/
theorem test_mix :
    mix ⟨[0x80000001, 0x01020304, 0xFFFFFFFF, 0x00FF00FF, 0x12345678, 0x9ABCDEF0, 0x0F0F0F0F, 0xF0000000], rfl⟩ =
      ⟨[0x8F0FFF10, 0xF1020484, 0x03058101, 0x02010402, 0x13335776, 0xD0125801, 0x4477BBFF, 0x99CBEDFF], rfl⟩ := by
  decide

/-- V-ITER, the second case: `g` uses the old `c`. -/
theorem test_iter :
    iter ⟨⟨[0x00010000, 0x00020000, 0x00030000, 0x00040000, 0x80000000, 0xFFFFFFFF, 0x0000FFFF, 0x12345678], rfl⟩,
          ⟨[0, 0, 0, 0, 0, 1, 1, 0x11111111], rfl⟩, true⟩ =
      ⟨⟨[0x8A726B66, 0x6B658B75, 0x00050009, 0x00000914, 0x40190000, 0x00000050, 0x00004001, 0x6B658B71], rfl⟩,
       ⟨[0x4D34D34E, 0xD34D34D3, 0x34D34D34, 0x4D34D34D, 0xD34D34D3, 0x34D34D35, 0x4D34D34E, 0xE45E45E4], rfl⟩,
       false⟩ := by decide

/-- V-EXT, the first and third cases. -/
theorem test_keystream :
    keystream ⟨[0x03020100, 0x13121110, 0x23222120, 0x33323130, 0x43424140, 0x53525150, 0x63626160, 0x73727170], rfl⟩ =
      ⟨[0x52, 0x52, 0x32, 0x32, 0x52, 0x52, 0x72, 0x72, 0x52, 0x52, 0x32, 0x32, 0x52, 0x52, 0x72, 0x72], rfl⟩ ∧
    (keystream ⟨[0, 0, 0, 0x0000ABCD, 0, 0x12340000, 0, 0], rfl⟩).first 4 = [0x34, 0x12, 0xCD, 0xAB] := by decide

/-- V-IVMASK, IV A. -/
theorem test_ivMask :
    ivMask (counting 8) 0 = 0x03020100#32 ∧ ivMask (counting 8) 1 = 0x01000706#32 ∧
    ivMask (counting 8) 6 = 0x07060504#32 ∧ ivMask (counting 8) 7 = 0x05040302#32 := by decide

/-- V-XFORM, key Z, IV Z, "Hello, Rabbit!". -/
theorem test_transform :
    transform (Vec.fill 16 0#8) (some (Vec.fill 8 0#8)) (hello.first 14) =
      [0x77, 0xE9, 0x22, 0x49, 0x47, 0xAC, 0x2F, 0x4A, 0x81, 0x37, 0xD3, 0x46, 0x47, 0x9F] := by decide +kernel

/-! ### One step of each instruction -/

/-- V-STATUS: a successful CONSTRUCT with an IV. -/
theorem test_construct_ok :
    (ran (.construct true 8#8 16#8) { State.reset with eproto := true }).status = 0x0A#8 := by decide

/-- V-STATUS, the eleventh row: a bad IV length after a good CONSTRUCT with an IV. -/
theorem test_construct_bad_iv :
    (ran (.construct true 9#8 16#8) { inPhase .stream with ivp := true, K := keyB, doutn := 16#5 }).status = 0x28#8 ∧
    (ran (.construct true 9#8 16#8) { inPhase .stream with ivp := true, K := keyB, doutn := 16#5 }).K = keyB := by
  decide

/-- P4, action 7: START in an open stream. -/
theorem test_start :
    (ran .start { inPhase .stream with ivp := true, doutn := 16#5 }).status = 0x0B#8 ∧
    (ran .start { inPhase .stream with ivp := true, doutn := 16#5 }).doutn = 0#5 := by decide

/-- V-STATUS: START in `UNKEYED`. -/
theorem test_start_unkeyed : (ran .start State.reset).status = 0x40#8 := by decide

/-- The example of R67: 14 bytes; the two bytes after them are not output. -/
theorem test_block :
    (ran (.block 14#5) { inPhase .stream with x := openZ.x, ports := { Ports.quiet with din := hello } }).dout =
      ⟨[0x77, 0xE9, 0x22, 0x49, 0x47, 0xAC, 0x2F, 0x4A, 0x81, 0x37, 0xD3, 0x46, 0x47, 0x9F, 0, 0], rfl⟩ ∧
    (ran (.block 14#5) (inPhase .stream)).last = true ∧ (ran (.block 16#5) (inPhase .stream)).last = false := by
  decide

/-- V-CMD: `N = 17` in an open stream. -/
theorem test_block_illegal : ran (.block 17#5) (inPhase .stream) = { inPhase .stream with eproto := true } := by
  decide

/-- V-EXPAND, key B. -/
theorem test_expand :
    (ran .expand { inPhase .sExpand with K := keyB }).cipher =
      ⟨⟨[0x67452301, 0x547698BA, 0xEFCDAB89, 0x23011032, 0x98BADCFE, 0xAB896745, 0x10325476, 0xDCFEEFCD], rfl⟩,
       ⟨[0xDCFE98BA, 0x6745AB89, 0x54761032, 0xEFCDDCFE, 0x23016745, 0x98BA5476, 0xAB89EFCD, 0x10322301], rfl⟩,
       false⟩ := by decide

/-- V-SETUP-1, WARM 4. -/
theorem test_iterWarm_last :
    (ran .iterWarm ({ inPhase .sWarm with cnt := 3#2 }.setCipher warm3)).cipher = warm4 ∧
    (ran .iterWarm ({ inPhase .sWarm with cnt := 3#2 }.setCipher warm3)).phase = .sRemix := by decide

theorem test_iterWarm_count :
    (ran .iterWarm { inPhase .sWarm with cnt := 2#2 }).cnt = 3#2 ∧
    (ran .iterWarm { inPhase .sWarm with cnt := 2#2 }).phase = .sWarm := by decide

/-- V-SETUP-1, REMIX. -/
theorem test_remix :
    (ran .remix ((inPhase .sRemix).setCipher warm4)).c =
      ⟨[0xE0025F7A, 0xD6768EAD, 0xE09154A8, 0x2E1448F3, 0x2B51A4A1, 0xD6710B4F, 0x0CBDD0CD, 0x85C7C828], rfl⟩ := by
  decide

theorem test_remix_next_phase :
    (ran .remix (inPhase .sRemix)).phase = .stream ∧
    (ran .remix { inPhase .sRemix with ivp := true }).phase = .sIvmix := by decide

/-- V-IVMASK, IV A, into counters of zero. -/
theorem test_ivmix :
    (ran .ivmix { inPhase .sIvmix with IV := counting 8 }).c =
      ⟨[0x03020100, 0x01000706, 0x07060504, 0x05040302, 0x03020100, 0x01000706, 0x07060504, 0x05040302], rfl⟩ := by
  decide

/-- V-SETUP-1, IVWARM 4. -/
theorem test_iterIvwarm :
    (ran .iterIvwarm ({ inPhase .sIvwarm with cnt := 3#2 }.setCipher
      ⟨⟨[0x7738FF0A, 0xBDBF8229, 0xDEFAC545, 0xFE4D401B, 0xF36C49AF, 0xB1AB1BFB, 0x34AD3262, 0x28C15DF3], rfl⟩,
       ⟨[0xC7A0D964, 0x505E2D27, 0x7F0B3C47, 0x15B2C2DB, 0xA539431B, 0x74EAF2ED, 0xF45C4AB5, 0xFFAF66A1], rfl⟩,
       false⟩)).cipher = openZ ∧
    (ran .iterIvwarm { inPhase .sIvwarm with cnt := 3#2 }).phase = .stream := by decide

/-- V-SETUP-1, the state after block 0. -/
theorem test_iterBlock :
    (ran .iterBlock ((inPhase .bIter).setCipher openZ)).cipher =
      ⟨⟨[0x0525C7A4, 0xFD6AE05E, 0xA4E1CCB6, 0x838AC34B, 0x92181549, 0x1FF699B6, 0x888792D1, 0xB0875200], rfl⟩,
       ⟨[0x620A7FFF, 0xF6F896CE, 0xE8B1D6B0, 0xB01C6975, 0x4BD3ACC1, 0xDE918D57, 0x8EC5F14F, 0xA649D048], rfl⟩,
       true⟩ := by decide

theorem test_iterBlock_next_phase :
    (ran .iterBlock (inPhase .bIter)).phase = .stream ∧
    (ran .iterBlock { inPhase .bIter with last := true }).phase = .keyed := by decide

/-- R84: a reset pre-empts a micro-step. -/
theorem test_reset :
    { (inPhase .sWarm .reset) with K := keyB, cnt := 2#2 }.stepped = State.reset := by decide

/-- R44: the words of BLOCK lines of 1 and 16 bytes; outside 1 to 16 the count is illegal (assumption log 17). -/
theorem test_block_line :
    claimedCount [0#8] = 1#5 ∧ claimedCount (List.replicate 16 0#8) = 16#5 ∧
    Instr.wellFormed (.block (claimedCount [])) = false ∧
    Instr.wellFormed (.block (claimedCount (List.replicate 17 0#8))) = false ∧
    Instr.wellFormed (.block (claimedCount (List.replicate 33 0#8))) = false := by decide

/-- R46: a command presented while busy is held, and taken when the engine is ready. -/
theorem test_command_held :
    (inPhase .bIter (.command 0x30000010#32)).stepped.ports.req = .command 0x30000010#32 ∧
    (inPhase .stream (.command 0x30000010#32)).stepped.phase = .bIter := by decide

/-! ### Witnesses: states and operands that meet the hypotheses of each obligation, clause by clause -/

/-- Key A's CONSTRUCT with an IV on the ports. -/
def askConstruct : Request := .command 0x10010810#32

theorem witness_EncodeOfDecodeIsTheCode :
    decode (.cmd32 0x1001FFFF#32) = .ok (.construct true 255#8 255#8) ∧ decode (.cmd32 0x20000000#32) = .ok .start ∧
    decode (.cmd32 0x30000000#32) = .ok (.block 0#5) ∧ decode (.cmd32 0x3000001F#32) = .ok (.block 31#5) ∧
    decode (.uop4 2#4) = .ok .expand ∧ decode (.uop4 8#4) = .ok .iterBlock := ⟨rfl, rfl, rfl, rfl, rfl, rfl⟩

/-- A word under each of the four cases, and one under none. -/
theorem witness_ReservedWordsByField :
    (0x4FFFFFFF#32 : Word).extractLsb' 28 4 = 4#4 ∧
    ((0x10020010#32 : Word).extractLsb' 28 4 = 1#4 ∧ (0x10020010#32 : Word).extractLsb' 17 11 ≠ 0#11) ∧
    ((0x28000000#32 : Word).extractLsb' 28 4 = 2#4 ∧ (0x28000000#32 : Word).extractLsb' 0 28 ≠ 0#28) ∧
    ((0x30000020#32 : Word).extractLsb' 28 4 = 3#4 ∧ (0x30000020#32 : Word).extractLsb' 5 23 ≠ 0#23) ∧
    decodeCommand 0x3000001F#32 = .ok (.block 31#5) :=
  ⟨by decide, by decide, by decide, by decide, rfl⟩

theorem witness_PhaseCodesSelectMicroOps :
    Phase.ofCode 8#4 = some .bIter ∧ 9 ≤ (9#4 : BitVec 4).toNat ∧ 9 ≤ (15#4 : BitVec 4).toNat ∧
    Phase.busy .bIter = true ∧ Phase.busy .stream = false := by decide

theorem witness_StepRunsThePresentedCommand : ∃ (s : State) (w : Word) (i : Instr),
    s.ports.req = .command w ∧ s.phase.busy = false ∧ decodeCommand w = .ok i :=
  ⟨inPhase .stream (.command 0x30000001#32), 0x30000001#32, .block 1#5, rfl, rfl, rfl⟩

theorem witness_StepRunsThePhasesMicroOp : ∃ (s t : State) (i j : Instr) (w : Word),
    (decodeMicroOp s.phase.code = .ok i ∧ s.ports.req = .none) ∧
    (decodeMicroOp t.phase.code = .ok j ∧ t.ports.req = .command w) :=
  ⟨inPhase .sExpand, inPhase .bIter askConstruct, .expand, .iterBlock, 0x10010810#32, ⟨rfl, rfl⟩, ⟨rfl, rfl⟩⟩

theorem witness_WaitingStepMovesOnlyTheHost : ∃ (s t : State) (p : Ports) (rest : List Ports),
    (s.ports.req = .none ∧ s.phase.busy = false ∧ s.script = p :: rest) ∧
    (t.ports.req = .none ∧ t.phase.busy = false ∧ t.script = []) :=
  ⟨inPhase .keyed .none [Ports.quiet], inPhase .stream, Ports.quiet, [], ⟨rfl, rfl, rfl⟩, ⟨rfl, rfl, rfl⟩⟩

theorem witness_BusyStepHoldsTheCommand : ∃ (s : State) (w : Word), s.ports.req = .command w ∧ s.phase.busy = true :=
  ⟨inPhase .sIvwarm askConstruct, 0x10010810#32, rfl, rfl⟩

theorem witness_CommandsHaveNoEffectWhileBusy : ∃ s : State, s.phase.busy = true := ⟨inPhase .bIter, rfl⟩

/-- The words at the edges of the acceptable ones: reserved, START unkeyed, BLOCK of 0, of 17, and in `KEYED`. -/
theorem witness_OtherWordsAreProtocolErrors : ∀ x : Phase × Word,
    x ∈ [(Phase.stream, 0x10020010#32), (.unkeyed, 0x20000000#32), (.stream, 0x30000000#32), (.stream, 0x30000011#32),
         (.keyed, 0x30000010#32), (.keyed, 0x00000000#32)] →
    (inPhase x.1 (.command x.2)).ports.req = .command x.2 ∧ (inPhase x.1).phase.busy = false ∧
    ¬ (x.2 &&& 0xFFFE0000#32 = 0x10000000#32) ∧
    ¬ (x.2 = 0x20000000#32 ∧ (x.1 = .keyed ∨ x.1 = .stream)) ∧
    ¬ (x.2 &&& 0xFFFFFFE0#32 = 0x30000000#32 ∧ 1 ≤ (x.2.extractLsb' 0 5).toNat ∧ (x.2.extractLsb' 0 5).toNat ≤ 16 ∧
        x.1 = .stream) := by decide

/-- Each non-busy phase; each branch at a boundary: `KLEN` 15, 17, 16, `IVLEN` 7, 9, 8. -/
theorem witness_ConstructChecksAndLatches :
    (inPhase .unkeyed).phase.busy = false ∧ (inPhase .keyed).phase.busy = false ∧
    (inPhase .stream).phase.busy = false ∧
    (15#8 : Byte).toNat ≠ 16 ∧ (17#8 : Byte).toNat ≠ 16 ∧ (16#8 : Byte).toNat = 16 ∧
    (7#8 : Byte).toNat ≠ 8 ∧ (9#8 : Byte).toNat ≠ 8 ∧ (8#8 : Byte).toNat = 8 := by decide

/-- Key lengths 15, 17 and 0; IV lengths 7, 9 and 0 with a legal key length. -/
theorem witness_LengthFaultsOfConstructWords :
    ((0x1001080F#32 : Word) &&& 0xFFFE0000#32 = 0x10000000#32 ∧ ((0x1001080F#32 : Word).extractLsb' 0 8).toNat ≠ 16) ∧
    ((0x10010811#32 : Word) &&& 0xFFFE0000#32 = 0x10000000#32 ∧ ((0x10010811#32 : Word).extractLsb' 0 8).toNat ≠ 16) ∧
    ((0x10010710#32 : Word) &&& 0xFFFE0000#32 = 0x10000000#32 ∧ ((0x10010710#32 : Word).extractLsb' 0 8).toNat = 16 ∧
      (0x10010710#32 : Word).getLsbD 16 = true ∧ ((0x10010710#32 : Word).extractLsb' 8 8).toNat ≠ 8) ∧
    ((0x10010910#32 : Word).getLsbD 16 = true ∧ ((0x10010910#32 : Word).extractLsb' 8 8).toNat ≠ 8) ∧
    ((0x10010010#32 : Word).getLsbD 16 = true ∧ ((0x10010010#32 : Word).extractLsb' 8 8).toNat ≠ 8) ∧
    ((0x1000FF10#32 : Word) &&& 0xFFFE0000#32 = 0x10000000#32 ∧ ((0x1000FF10#32 : Word).extractLsb' 0 8).toNat = 16 ∧
      (0x1000FF10#32 : Word).getLsbD 16 = false) ∧
    (inPhase .stream (.command 0x1001080F#32)).phase.busy = false := by
  refine ⟨⟨?_, ?_⟩, ⟨?_, ?_⟩, ⟨?_, ?_, ?_, ?_⟩, ⟨?_, ?_⟩, ⟨?_, ?_⟩, ⟨?_, ?_, ?_⟩, rfl⟩ <;> decide

theorem witness_BlockXorsKeystreamOrFaults :
    ((inPhase .stream).phase = .stream ∧ 1 ≤ (1#5 : BitVec 5).toNat ∧ (16#5 : BitVec 5).toNat ≤ 16) ∧
    ((inPhase .keyed).phase.busy = false ∧ (inPhase .keyed).phase ≠ .stream ∧ (0#5 : BitVec 5).toNat = 0 ∧
      16 < (17#5 : BitVec 5).toNat) ∧
    ((inPhase .stream (.command 0x30000030#32)).ports.req = .command 0x30000030#32 ∧
      (0x30000030#32 : Word).extractLsb' 28 4 = 3#4 ∧ (0x30000030#32 : Word).extractLsb' 5 23 ≠ 0#23) := by decide

theorem witness_WarmUpStepsIterateAndCount :
    (3#2 : BitVec 2).toNat = 3 ∧ (2#2 : BitVec 2).toNat < 3 ∧ (0#2 : BitVec 2).toNat < 3 ∧
    (Instr.iterWarm = .iterWarm ∧ Phase.sRemix = .sRemix) ∧ (Instr.iterIvwarm = .iterIvwarm ∧ Phase.stream = .stream) := by
  decide

/-- The one block of one byte, the last of 17 bytes, and the first of 17. -/
theorem witness_BlocksOfABuffer :
    16 * 0 < [0#8].length ∧ 16 * 1 < (List.replicate 17 0#8).length ∧ 16 * 0 < (List.replicate 17 0#8).length := by
  decide

theorem witness_ResetClearsEveryRegister : ∃ s : State, s.ports.req = .reset ∧ s.phase.busy = true ∧ s.K = keyB :=
  ⟨{ inPhase .sWarm .reset with K := keyB }, rfl, rfl, rfl⟩

/-- A step from each of the nine phases with a command on the ports; a reset; a wait. -/
theorem witness_PhaseTransitions :
    (∀ p : Phase, ∃ s t : State, s.phase = p ∧ s.ports.req = askConstruct ∧ step s = .next t) ∧
    (∃ s t : State, s.ports.req = .reset ∧ step s = .next t) ∧
    (∃ s t : State, s.ports.req = .none ∧ s.phase.busy = false ∧ step s = .next t) := by
  refine ⟨fun p => ⟨inPhase p askConstruct, (inPhase p askConstruct).stepped, rfl, rfl, ?_⟩,
    ⟨inPhase .bIter .reset, (inPhase .bIter .reset).stepped, rfl, rfl⟩,
    ⟨inPhase .stream, (inPhase .stream).stepped, rfl, rfl, rfl⟩⟩
  cases p <;> rfl

theorem witness_UnkeyedUntilValidConstruct : ∃ s t : State,
    s.phase = .unkeyed ∧ step s = .next t ∧ t.phase ≠ .unkeyed :=
  ⟨inPhase .unkeyed askConstruct, (inPhase .unkeyed askConstruct).stepped, rfl, rfl, by decide⟩

theorem witness_KeyChangesOnlyByConstruct : ∃ s t : State,
    step s = .next t ∧ ¬ (t.K = s.K ∧ t.IV = s.IV ∧ t.ivp = s.ivp) :=
  ⟨inPhase .unkeyed askConstruct, (inPhase .unkeyed askConstruct).stepped, rfl, by decide⟩

theorem witness_CipherStateChangesOnlyBusy : ∃ s t : State,
    step s = .next t ∧ ¬ (t.x = s.x ∧ t.c = s.c ∧ t.b = s.b) :=
  ⟨inPhase .sWarm, (inPhase .sWarm).stepped, rfl, by decide⟩

theorem witness_OutputChangesOnlyByCommands : ∃ s t : State,
    step s = .next t ∧ ¬ (t.dout = s.dout ∧ t.doutn = s.doutn) ∧ s.ports.req ≠ .reset ∧ t.doutn ≠ 0#5 :=
  ⟨inPhase .stream (.command 0x30000010#32), (inPhase .stream (.command 0x30000010#32)).stepped, rfl,
    by decide, by decide, by decide⟩

/-- Each of the three flags falls in a step. -/
theorem witness_FlagsClearedOnlyByConstructOrReset : ∃ s t : State, step s = .next t ∧
    (s.ekey = true ∧ t.ekey = false) ∧ (s.eiv = true ∧ t.eiv = false) ∧ (s.eproto = true ∧ t.eproto = false) :=
  ⟨{ inPhase .unkeyed askConstruct with ekey := true, eiv := true, eproto := true },
    { inPhase .unkeyed askConstruct with ekey := true, eiv := true, eproto := true }.stepped, rfl,
    by decide, by decide, by decide⟩

/-- Each of the three flags rises in a step. -/
theorem witness_FaultsLeaveNoTraceButTheFlag : ∃ s t u v : State,
    (step s = .next t ∧ s.ekey = false ∧ t.ekey = true) ∧
    (∃ s' : State, step s' = .next u ∧ s'.eiv = false ∧ u.eiv = true) ∧
    (∃ s' : State, step s' = .next v ∧ s'.eproto = false ∧ v.eproto = true) :=
  ⟨inPhase .stream (.command 0x1001080F#32), (inPhase .stream (.command 0x1001080F#32)).stepped,
    (inPhase .keyed (.command 0x10010710#32)).stepped, (inPhase .keyed (.command 0x30000010#32)).stepped,
    ⟨rfl, rfl, by decide⟩, ⟨inPhase .keyed (.command 0x10010710#32), rfl, rfl, by decide⟩,
    ⟨inPhase .keyed (.command 0x30000010#32), rfl, rfl, by decide⟩⟩

/-- A state inside a block, which meets the invariant and steps. -/
theorem witness_StepKeepsTheInvariant : ∃ s t : State, s.Inv ∧ s.phase = .bIter ∧ step s = .next t := by
  refine ⟨{ inPhase .bIter with doutn := 1#5, last := true },
    { inPhase .bIter with doutn := 1#5, last := true }.stepped, ?_, rfl, rfl⟩
  constructor <;> decide

/-- The premise of the last clause: a host with nothing to come, and one that holds a command. -/
theorem witness_BusyPeriodsEnd : (inPhase .sExpand).Undisturbed ∧ (inPhase .sIvwarm askConstruct).Undisturbed :=
  ⟨.inr ⟨rfl, rfl⟩, .inl ⟨_, rfl⟩⟩

theorem witness_OneConstructReachesKeyed : ∃ (s t : State) (v w : Word),
    (s.ports.req = .command v ∧ validConstruct v ∧ s.phase.busy = true) ∧
    (t.ports.req = .command w ∧ validConstruct w ∧ t.phase = .unkeyed) :=
  ⟨inPhase .sExpand askConstruct, inPhase .unkeyed (.command 0x1000FF10#32), 0x10010810#32, 0x1000FF10#32,
    ⟨rfl, ⟨by decide, by decide, .inr (by decide)⟩, rfl⟩, ⟨rfl, ⟨by decide, by decide, .inl (by decide)⟩, rfl⟩⟩

/-- Without an IV and a host that has a command to come; with an IV and a host that holds one. -/
theorem witness_SetupRunsInSixOrElevenSteps : ∃ s t : State,
    (s.phase = .sExpand ∧ s.ResetFree ∧ s.ivp = false) ∧ (t.phase = .sExpand ∧ t.ResetFree ∧ t.ivp = true) := by
  refine ⟨inPhase .sExpand .none [Ports.quiet, { Ports.quiet with req := askConstruct }],
    { inPhase .sExpand askConstruct with ivp := true }, ⟨rfl, ⟨by decide, ?_⟩, rfl⟩, rfl, ⟨by decide, ?_⟩, rfl⟩
  · decide
  · decide

theorem witness_StartOpensAFreshStream : (inPhase .unkeyed).phase = .unkeyed ∧ ∃ s t : State,
    ((s.phase = .keyed ∨ s.phase = .stream) ∧ s.ports.req = .command 0x20000000#32 ∧ s.script = [] ∧ s.ivp = false) ∧
    ((t.phase = .keyed ∨ t.phase = .stream) ∧ t.ports.req = .command 0x20000000#32 ∧ t.script = [] ∧ t.ivp = true) :=
  ⟨rfl, inPhase .keyed (.command 0x20000000#32), { inPhase .stream (.command 0x20000000#32) with ivp := true },
    ⟨.inl rfl, rfl, rfl, rfl⟩, ⟨.inr rfl, rfl, rfl, rfl⟩⟩

theorem witness_CommandsComputeTransform : ∃ s : State, s.phase = .keyed ∨ s.phase = .stream :=
  ⟨inPhase .keyed, .inl rfl⟩

/-- The first and the last byte of 17. -/
theorem witness_TransformIsXorWithKeystream :
    0 < (List.replicate 17 0#8).length ∧ 16 < (List.replicate 17 0#8).length := by decide

/-- Lengths on both sides of the multiple-of-16 clause: 0, 16 and 17 bytes. -/
theorem witness_TransformKeepsLengthAndEndsReady : ∃ s : State, (s.phase = .keyed ∨ s.phase = .stream) ∧
    ([] : List Byte).length % 16 = 0 ∧ (List.replicate 16 0#8).length % 16 = 0 ∧
    (List.replicate 17 0#8).length % 16 ≠ 0 :=
  ⟨inPhase .stream, .inr rfl, by decide, by decide, by decide⟩

theorem witness_TransformTwiceIsTheInput : ∃ s : State, s.phase = .keyed ∨ s.phase = .stream :=
  ⟨inPhase .stream, .inr rfl⟩

/-- Two engines that differ in phase, cipher state, IV, flags and output. -/
theorem witness_TransformDependsOnKeyIvInputOnly : ∃ s t : State,
    (s.phase = .keyed ∨ s.phase = .stream) ∧ (t.phase = .keyed ∨ t.phase = .stream) ∧
    s.K = t.K ∧ s.ivp = t.ivp ∧ (s.ivp = true → s.IV = t.IV) ∧ s.phase ≠ t.phase ∧ s.x ≠ t.x ∧ s.IV ≠ t.IV :=
  ⟨inPhase .keyed, { inPhase .stream with x := openZ.x, IV := counting 8, eproto := true, doutn := 16#5 },
    .inl rfl, .inr rfl, rfl, rfl, by decide, by decide, by decide, by decide⟩

/-- Two unkeyed engines that differ in every register that cannot show. -/
theorem witness_UnwrittenStateNeverShows : ∃ s t : State, s.Agree t ∧ s.x ≠ t.x ∧ s.K ≠ t.K ∧ s.IV ≠ t.IV := by
  refine ⟨inPhase .unkeyed askConstruct,
    { inPhase .unkeyed askConstruct with x := openZ.x, c := openZ.c, b := true, K := keyB, IV := counting 8 },
    ?_, by decide, by decide, by decide⟩
  constructor <;> decide

/-- Ports that differ in each clause's unused bytes and agree in its used ones. -/
theorem witness_UnusedPortBytesHaveNoEffect :
    (∀ j : Fin 16, j.val < (14#5 : BitVec 5).toNat →
      hello.get j = (Vec.ofFn fun i : Fin 16 => if i.val < 14 then hello.get i else 0#8).get j) ∧
    ¬ ((15#8 : Byte).toNat = 16 ∧ (true = false ∨ (8#8 : Byte).toNat = 8)) ∧
    ((16#8 : Byte).toNat = 16 ∧ (false = false ∨ (255#8 : Byte).toNat = 8)) ∧ ((false : Bool) = true → counting 8 = Vec.fill 8 0#8) := by
  decide

end Sys2Proof.Tests
end

section
/-! The `STATUS` port read bit by bit (spec/10_state.md R21): one rule per bit, and R16's list of the busy phases.
The port is written as single bits appended one by one, so a bit is read by dropping appended bits until it is the
last. -/

namespace Sys2Proof.Machine

/-- The six rows of R16 that are marked busy. -/
theorem busy_iff (p : Phase) : p.busy = true ↔
    p = .sExpand ∨ p = .sWarm ∨ p = .sRemix ∨ p = .sIvmix ∨ p = .sIvwarm ∨ p = .bIter := by
  cases p <;> simp

/-! ### A bit of a word with one bit appended -/

theorem getLsbD_append_ofBool_zero {w : Nat} (v : BitVec w) (p : Bool) : (v ++ BitVec.ofBool p).getLsbD 0 = p := by
  rw [BitVec.getLsbD_append]
  simp

theorem getLsbD_append_ofBool_succ {w : Nat} (v : BitVec w) (p : Bool) (i : Nat) :
    (v ++ BitVec.ofBool p).getLsbD (i + 1) = v.getLsbD i := by
  simp [BitVec.getLsbD_append]

/-! ### The eight bits of STATUS -/

variable (s : State)

theorem status_bit_busy : s.status.getLsbD 0 = s.phase.busy := by
  simp only [State.status, getLsbD_append_ofBool_zero]

theorem status_bit_keyed : s.status.getLsbD 1 = decide (s.phase ≠ .unkeyed) := by
  simp only [State.status, getLsbD_append_ofBool_succ, getLsbD_append_ofBool_zero]

theorem status_bit_strm : s.status.getLsbD 2 = decide (s.phase = .stream) := by
  simp only [State.status, getLsbD_append_ofBool_succ, getLsbD_append_ofBool_zero]

theorem status_bit_ivp : s.status.getLsbD 3 = s.ivp := by
  simp only [State.status, getLsbD_append_ofBool_succ, getLsbD_append_ofBool_zero]

theorem status_bit_ekey : s.status.getLsbD 4 = s.ekey := by
  simp only [State.status, getLsbD_append_ofBool_succ, getLsbD_append_ofBool_zero]

theorem status_bit_eiv : s.status.getLsbD 5 = s.eiv := by
  simp only [State.status, getLsbD_append_ofBool_succ, getLsbD_append_ofBool_zero]

theorem status_bit_eproto : s.status.getLsbD 6 = s.eproto := by
  simp only [State.status, getLsbD_append_ofBool_succ, getLsbD_append_ofBool_zero]

theorem status_bit_reserved : s.status.getLsbD 7 = false := by
  simp only [State.status, getLsbD_append_ofBool_succ, BitVec.getLsbD_zero]

/-- Settles O27: the three bits that depend on the phase say when they are set, the other five are read off. -/
theorem statusBits : Obligations.StatusBits := by
  intro s
  refine ⟨?busy, ?keyed, ?strm, status_bit_ivp s, status_bit_ekey s, status_bit_eiv s, status_bit_eproto s,
    status_bit_reserved s⟩
  case busy => rw [status_bit_busy, busy_iff]
  case keyed => rw [status_bit_keyed, decide_eq_true_iff]
  case strm => rw [status_bit_strm, decide_eq_true_iff]

end Sys2Proof.Machine
end

section
/-! The setup commands and micro-operations one by one (spec/40_setup.md R47 to R53): what the vector functions put in
each lane, when a warm-up step counts on or ends the warm-up, and each meaning's whole effect. -/

namespace Sys2Proof.Machine

/-! ### Lanes written out -/

/-- A vector of eight lanes, element by element. -/
theorem ofFn_eight {α : Type} (f : Fin 8 → α) :
    Vec.ofFn f = ⟨[f 0, f 1, f 2, f 3, f 4, f 5, f 6, f 7], rfl⟩ := rfl

/-- The state words of EXPAND by lane (R49). -/
theorem expandKey_x (K : Vec Byte 16) :
    (expandKey K).x = ⟨[keyWord K 1 ++ keyWord K 0, keyWord K 6 ++ keyWord K 5, keyWord K 3 ++ keyWord K 2,
      keyWord K 0 ++ keyWord K 7, keyWord K 5 ++ keyWord K 4, keyWord K 2 ++ keyWord K 1,
      keyWord K 7 ++ keyWord K 6, keyWord K 4 ++ keyWord K 3], rfl⟩ := by
  simp only [← joinHalves_eq]
  exact ofFn_eight _

/-- The counters of EXPAND by lane (R49). -/
theorem expandKey_c (K : Vec Byte 16) :
    (expandKey K).c = ⟨[keyWord K 4 ++ keyWord K 5, keyWord K 1 ++ keyWord K 2, keyWord K 6 ++ keyWord K 7,
      keyWord K 3 ++ keyWord K 4, keyWord K 0 ++ keyWord K 1, keyWord K 5 ++ keyWord K 6,
      keyWord K 2 ++ keyWord K 3, keyWord K 7 ++ keyWord K 0], rfl⟩ := by
  simp only [← joinHalves_eq]
  exact ofFn_eight _

/-- A word of four bytes is its high half above its low half. -/
theorem le32_eq_append (b0 b1 b2 b3 : Byte) : le32 b0 b1 b2 b3 = le16 b2 b3 ++ le16 b0 b1 :=
  BitVec.append_assoc

/-- The low half of the second word above the high half of the first, as R52 makes its two crossed masks. -/
theorem shiftRight_or_shiftLeft_append (h l h' l' : Half) :
    ((h ++ l : Word) >>> 16) ||| ((h' ++ l' : Word) <<< 16) = l' ++ h := by
  apply BitVec.eq_of_getLsbD_eq
  intro i hi
  simp only [BitVec.getLsbD_or, BitVec.getLsbD_ushiftRight, BitVec.getLsbD_shiftLeft, BitVec.getLsbD_append]
  by_cases hlow : i < 16
  · simp [hlow]
  · have hhigh : i - 16 < 16 := by omega
    have hout : h.getLsbD i = false := BitVec.getLsbD_of_ge h i (by omega)
    simp [hlow, hi, hhigh, hout]

/-- The mask of lanes 1 and 5 by bytes (R52, R29). -/
theorem ivMask_one (IV : Vec Byte 8) :
    ivMask IV 1 = le32 (IV.get 6) (IV.get 7) (IV.get 0) (IV.get 1) := by
  change (iv1 IV >>> 16) ||| (iv0 IV <<< 16) = _
  simp only [iv0, iv1, le32_eq_append, shiftRight_or_shiftLeft_append]

/-- The mask of lanes 3 and 7 by bytes (R52, R29). -/
theorem ivMask_three (IV : Vec Byte 8) :
    ivMask IV 3 = le32 (IV.get 2) (IV.get 3) (IV.get 4) (IV.get 5) := by
  change (iv0 IV >>> 16) ||| (iv1 IV <<< 16) = _
  simp only [iv0, iv1, le32_eq_append, shiftRight_or_shiftLeft_append]

/-! ### A warm-up step -/

/-- The fourth warm-up step ends the warm-up (R50, R53). -/
theorem warmStep_last {s : State} (done : Phase) (h : s.cnt.toNat = 3) :
    s.warmStep done = ((s.setCipher (iter s.cipher)).setCnt 0#2).setPhase done :=
  if_pos (BitVec.eq_of_toNat_eq h)

/-- The first three warm-up steps count (R50, R53). -/
theorem warmStep_count {s : State} (done : Phase) (h : s.cnt.toNat < 3) :
    s.warmStep done = (s.setCipher (iter s.cipher)).setCnt (BitVec.ofNat 2 (s.cnt.toNat + 1)) := by
  have hne : s.cnt ≠ 3#2 := by rintro e; simp [e] at h
  have hadd : BitVec.ofNat 2 (s.cnt.toNat + 1) = s.cnt + 1#2 := by simp [BitVec.ofNat_add]
  rw [hadd]
  exact if_neg hne

/-! ### The effects -/

/-- Settles O12: by the three cases of CONSTRUCT, the key length checked first. -/
theorem constructChecksAndLatches : Obligations.ConstructChecksAndLatches := by
  intro s ivp ivlen klen hready
  refine (accept_ready (constructEffect ivp ivlen klen) hready).trans (congrArg Host.Outcome.next ?_)
  rcases constructEffect_cases ivp ivlen klen s with ⟨hk, h⟩ | ⟨hk, hp, hv, h⟩ | ⟨hk, hv, h⟩
  · rw [h, if_pos hk]; rfl
  · rw [h, if_neg (not_not_intro hk), if_pos ⟨hp, hv⟩]; rfl
  · have hiv : ¬ (ivp = true ∧ ivlen.toNat ≠ 8) := by
      rintro ⟨hp, hne⟩
      exact hv.elim (fun hf => by simp [hf] at hp) hne
    rw [h, if_neg (not_not_intro hk), if_neg hiv]; rfl

/-- Settles O15: the lanes of `expandKey` written out; each key word is two bytes of the key, the low one first. -/
theorem expandByTable : Obligations.ExpandByTable := by
  intro s
  change Host.Outcome.next { s with
    x := (expandKey s.K).x, c := (expandKey s.K).c, b := false, cnt := 0#2, phase := .sWarm } = _
  rw [expandKey_x, expandKey_c]
  rfl

/-- Settles O16: both warm-up micro-operations are `warmStep`, which ends at `cnt = 3` and counts below it. -/
theorem warmUpStepsIterateAndCount : Obligations.WarmUpStepsIterateAndCount := by
  intro s i done hi
  have hexec : exec i s = .next (s.warmStep done) := by
    rcases hi with ⟨rfl, rfl⟩ | ⟨rfl, rfl⟩ <;> rfl
  constructor
  · intro hcnt
    rw [hexec, warmStep_last done hcnt]; rfl
  · intro hcnt
    rw [hexec, warmStep_count done hcnt]; rfl

/-- Settles O17: the counters of `remixCounters` written out lane by lane. -/
theorem remixXorsStateIntoCounters : Obligations.RemixXorsStateIntoCounters := by
  intro s
  have hc : (remixCounters s.cipher).c = _ := ofFn_eight fun i => s.c.get i ^^^ s.x.get (i + 4)
  change Host.Outcome.next { s with
    c := (remixCounters s.cipher).c, phase := if s.ivp = true then .sIvmix else .stream } = _
  rw [hc]
  rfl

/-- Settles O18: lanes `i` and `i + 4` share a mask; masks 0 and 2 are the IV words, masks 1 and 3 cross their halves. -/
theorem ivMixXorsMasksIntoCounters : Obligations.IvMixXorsMasksIntoCounters := by
  intro s
  have hc : (mixIv s.IV s.cipher).c = ⟨[
      s.c.get 0 ^^^ iv0 s.IV, s.c.get 1 ^^^ ivMask s.IV 1, s.c.get 2 ^^^ iv1 s.IV, s.c.get 3 ^^^ ivMask s.IV 3,
      s.c.get 4 ^^^ iv0 s.IV, s.c.get 5 ^^^ ivMask s.IV 1, s.c.get 6 ^^^ iv1 s.IV, s.c.get 7 ^^^ ivMask s.IV 3],
      rfl⟩ := ofFn_eight _
  change Host.Outcome.next { s with c := (mixIv s.IV s.cipher).c, cnt := 0#2, phase := .sIvwarm } = _
  rw [hc, ivMask_one, ivMask_three]
  rfl

end Sys2Proof.Machine
end

section
/-! Whole runs of micro-steps under a host that does not reset (spec/40_setup.md R48, R54). A micro-operation neither
reads nor writes the host's side, so what several micro-steps make of the engine is said once for every such host
(`BusyRun`), and runs are put together from their parts. -/

namespace Sys2Proof.Machine

/-! ### Runs of the machine -/

theorem run_succ {s t : State} (h : step s = .next t) (n : Nat) :
    Host.Core.run core (n + 1) s = Host.Core.run core n t := by
  have hcore : core.step s = .next t := h
  simp only [Host.Core.run, hcore]

/-- No step stops. -/
theorem step_eq_next (s : State) : ∃ t, step s = .next t := by
  rcases step_cases s with ⟨_, h⟩ | ⟨_, _, h⟩ | ⟨_, _, _, _, _, h⟩ | ⟨_, _, _, _, _, h⟩ | ⟨_, _, _, h | h⟩ <;>
    exact ⟨_, h⟩

/-- A run goes on from where a shorter one has come to. -/
theorem run_add {n : Nat} {s t : State} (h : Host.Core.run core n s = .next t) (m : Nat) :
    Host.Core.run core (n + m) s = Host.Core.run core m t := by
  induction n generalizing s with
  | zero =>
    obtain rfl : s = t := next_inj.1 h
    rw [Nat.zero_add]
  | succ n ih =>
    obtain ⟨u, hs⟩ := step_eq_next s
    rw [run_succ hs] at h
    rw [Nat.add_right_comm, run_succ hs, ih h]

/-! ### The engine under another host -/

/-- The same engine with the given host side. -/
def State.underHost (s : State) (p : Ports) (q : List Ports) : State := { s with ports := p, script := q }

section UnderHost

variable (s : State) (p : Ports) (q : List Ports)

@[simp] theorem underHost_ports : (s.underHost p q).ports = p := rfl
@[simp] theorem underHost_script : (s.underHost p q).script = q := rfl
@[simp] theorem underHost_phase : (s.underHost p q).phase = s.phase := rfl
@[simp] theorem underHost_self : s.underHost s.ports s.script = s := rfl
@[simp] theorem underHost_underHost (p' : Ports) (q' : List Ports) :
    (s.underHost p q).underHost p' q' = s.underHost p' q' := rfl

/-- The instruction of a busy phase has no command word. -/
theorem encode_microOp_ne_cmd32 {ph : Phase} {i : Instr} (h : ph.microOp = some i) (w : Word) :
    encode i ≠ .cmd32 w := by
  cases ph <;> cases h <;> simp [encode]

theorem effect_underHost {i : Instr} (h : s.phase.microOp = some i) :
    effect i (s.underHost p q) = (effect i s).underHost p q :=
  effect_microOp_host i s p q (encode_microOp_ne_cmd32 h)

end UnderHost

/-- The host's next ports are those of its script, or ask for nothing. -/
theorem hostNext_underHost {s : State} (h : s.ResetFree) :
    ∃ p q, s.hostNext = s.underHost p q ∧ (s.underHost p q).ResetFree ∧ q <:+ s.script := by
  obtain ⟨-, hscript⟩ := h
  cases hq : s.script with
  | nil => exact ⟨_, [], by rw [hostNext_nil s hq, State.underHost, hq], ⟨by simp, by simp⟩, List.suffix_rfl⟩
  | cons p rest =>
    rw [hq] at hscript
    exact ⟨p, rest, hostNext_cons s p rest hq,
      ⟨hscript p List.mem_cons_self, fun r hr => hscript r (List.mem_cons_of_mem p hr)⟩, List.suffix_cons p rest⟩

/-- A micro-step under a host that does not reset: the effect of the phase's micro-operation, and a host that still
does not reset and has no more to come than before. -/
theorem step_microOp_of_resetFree {s : State} {i : Instr} (hf : s.ResetFree) (hm : s.phase.microOp = some i) :
    ∃ p q, step s = .next ((effect i s).underHost p q) ∧ ((effect i s).underHost p q).ResetFree ∧
      q <:+ s.script := by
  cases hr : s.ports.req with
  | reset => exact absurd hr hf.1
  | none =>
    have hf' : (effect i s).ResetFree := by
      unfold State.ResetFree; rw [effect_ports, effect_script]; exact hf
    obtain ⟨p, q, hnext, hfree, hsuffix⟩ := hostNext_underHost hf'
    rw [effect_script] at hsuffix
    exact ⟨p, q, by rw [step_micro_quiet hr hm, hnext], hfree, hsuffix⟩
  | command w =>
    have hsame : effect i s = (effect i s).underHost s.ports s.script := by
      rw [← effect_underHost s s.ports s.script hm, underHost_self]
    exact ⟨s.ports, s.script, by rw [step_micro_held hr hm, ← hsame], hf, List.suffix_rfl⟩

/-! ### Busy runs -/

/-- Under every host that does not reset, the engine of `s` is busy for `n` steps and then is the engine of `t`; the
host does not reset then either, and has no more to come than before. -/
def BusyRun (n : Nat) (s t : State) : Prop :=
  ∀ p q, (s.underHost p q).ResetFree →
    (∃ p' q', Host.Core.run core n (s.underHost p q) = .next (t.underHost p' q') ∧
      (t.underHost p' q').ResetFree ∧ q' <:+ q) ∧
    ∀ m, m < n → ∃ u, Host.Core.run core m (s.underHost p q) = .next u ∧ u.phase.busy = true

/-- One micro-step is a busy run. -/
theorem busyRun_microOp {s : State} {i : Instr} (hm : s.phase.microOp = some i) : BusyRun 1 s (effect i s) := by
  intro p q hf
  obtain ⟨p', q', hstep, hfree, hsuffix⟩ := step_microOp_of_resetFree hf (i := i) hm
  rw [effect_underHost s p q hm, underHost_underHost] at hstep hfree
  refine ⟨⟨p', q', run_succ hstep 0, hfree, hsuffix⟩, fun m hlt => ?_⟩
  obtain rfl : m = 0 := by omega
  exact ⟨_, rfl, busy_of_microOp s.phase i hm⟩

/-- Busy runs follow one another. -/
theorem BusyRun.trans {s t u : State} {n m : Nat} (h₁ : BusyRun n s t) (h₂ : BusyRun m t u) :
    BusyRun (n + m) s u := by
  intro p q hf
  obtain ⟨⟨p', q', hrun, hfree, hsuffix⟩, hbusy⟩ := h₁ p q hf
  obtain ⟨⟨p'', q'', hrun', hfree', hsuffix'⟩, hbusy'⟩ := h₂ p' q' hfree
  refine ⟨⟨p'', q'', (run_add hrun m).trans hrun', hfree', hsuffix'.trans hsuffix⟩, fun k hk => ?_⟩
  rcases Nat.lt_or_ge k n with hlt | hge
  · exact hbusy k hlt
  · obtain ⟨j, rfl⟩ := Nat.exists_eq_add_of_le hge
    rw [run_add hrun j]
    exact hbusy' j (by omega)

/-- A micro-step before a busy run. -/
theorem BusyRun.cons {s t : State} {i : Instr} {n : Nat} (hm : s.phase.microOp = some i)
    (h : BusyRun n (effect i s) t) : BusyRun (n + 1) s t :=
  Nat.add_comm 1 n ▸ (busyRun_microOp hm).trans h

/-! ### Setup -/

/-- How every part of setup ends: a cipher state, the warm-up counter at 0, and the next phase. -/
def State.arriveAt (s : State) (k : CipherState) (ph : Phase) : State := ((s.setCipher k).setCnt 0#2).setPhase ph

/-- A warm-up with `k + 1` micro-steps to go. -/
theorem busyRun_warmUp_from {i : Instr} {done : Phase} (hi : ∀ t, effect i t = t.warmStep done) (k : Nat) {s : State}
    (hm : s.phase.microOp = some i) (hcnt : s.cnt.toNat + k = 3) :
    BusyRun (k + 1) s (s.arriveAt (iterate (k + 1) s.cipher) done) := by
  induction k generalizing s with
  | zero =>
    have h := busyRun_microOp hm
    rwa [hi, warmStep_last done hcnt] at h
  | succ k ih =>
    refine BusyRun.cons hm ?_
    rw [hi, warmStep_count done (by omega)]
    refine ih (s := (s.setCipher (iter s.cipher)).setCnt (BitVec.ofNat 2 (s.cnt.toNat + 1))) hm ?_
    rw [setCnt_cnt, BitVec.toNat_ofNat]
    omega

/-- A whole warm-up, first or second (R50, R53). -/
theorem busyRun_warmUp {i : Instr} {done : Phase} (hi : ∀ t, effect i t = t.warmStep done) {s : State}
    (hm : s.phase.microOp = some i) (hcnt : s.cnt = 0#2) : BusyRun 4 s (s.arriveAt (warmUp s.cipher) done) :=
  busyRun_warmUp_from hi 3 hm (by rw [hcnt]; rfl)

/-- Setup up to REMIX: EXPAND, a warm-up, REMIX (R49 to R51). -/
theorem busyRun_expand_to_remix {s : State} (h : s.phase = .sExpand) :
    BusyRun 6 s (s.arriveAt (setup s.K none) (if s.ivp then .sIvmix else .stream)) := by
  have hexpand : BusyRun 1 s (s.arriveAt (expandKey s.K) .sWarm) :=
    busyRun_microOp (i := .expand) (by rw [h]; rfl)
  have hwarm : BusyRun 4 _ (s.arriveAt (warmUp (expandKey s.K)) .sRemix) :=
    busyRun_warmUp (i := .iterWarm) (s := s.arriveAt (expandKey s.K) .sWarm) (fun _ => rfl) rfl rfl
  have hremix : BusyRun 1 _ (s.arriveAt (setup s.K none) (if s.ivp then .sIvmix else .stream)) :=
    busyRun_microOp (s := s.arriveAt (warmUp (expandKey s.K)) .sRemix) (i := .remix) rfl
  exact (hexpand.trans hwarm).trans hremix

/-- The IV part of setup: IVMIX and a second warm-up (R52, R53). -/
theorem busyRun_ivmix_to_stream {s : State} (h : s.phase = .sIvmix) :
    BusyRun 5 s (s.arriveAt (warmUp (mixIv s.IV s.cipher)) .stream) := by
  have hmix : BusyRun 1 s (s.arriveAt (mixIv s.IV s.cipher) .sIvwarm) :=
    busyRun_microOp (i := .ivmix) (by rw [h]; rfl)
  have hwarm : BusyRun 4 _ (s.arriveAt (warmUp (mixIv s.IV s.cipher)) .stream) :=
    busyRun_warmUp (i := .iterIvwarm) (s := s.arriveAt (mixIv s.IV s.cipher) .sIvwarm) (fun _ => rfl) rfl rfl
  exact hmix.trans hwarm

/-- The whole setup (R54). -/
theorem busyRun_setup {s : State} (h : s.phase = .sExpand) :
    BusyRun (if s.ivp then 11 else 6) s (s.arriveAt (setup s.K s.heldIv) .stream) := by
  have hremix := busyRun_expand_to_remix h
  cases hp : s.ivp with
  | false => simpa [State.heldIv, hp] using hremix
  | true =>
    rw [hp] at hremix
    have hiv : BusyRun 5 _ (s.arriveAt (setup s.K (some s.IV)) .stream) :=
      busyRun_ivmix_to_stream (s := s.arriveAt (setup s.K none) .sIvmix) rfl
    simpa [State.heldIv, hp] using hremix.trans hiv

/-- Settles O40: the busy run of setup, under the host that the state has. -/
theorem setupRunsInSixOrElevenSteps : Obligations.SetupRunsInSixOrElevenSteps := by
  intro s hphase hfree
  obtain ⟨⟨p, q, hrun, -, -⟩, hbusy⟩ := busyRun_setup hphase s.ports s.script hfree
  exact ⟨⟨p, q, hrun⟩, hbusy⟩

/-! ### START -/

/-- START with a key held clears the output and begins setup. -/
theorem effect_start_ready {s : State} (h : s.phase = .keyed ∨ s.phase = .stream) :
    effect .start s = s.clearOutput.setPhase .sExpand := by
  have hready : ¬ s.phase.busy = true := by rcases h with h | h <;> simp [h]
  exact (if_neg hready).trans (if_pos h)

/-- START without a key is a ProtocolError. -/
theorem effect_start_unkeyed {s : State} (h : s.phase = .unkeyed) : effect .start s = s.raise .protocolError := by
  have hready : ¬ s.phase.busy = true := by simp [h]
  exact (if_neg hready).trans (if_neg (by simp [h]))

/-- The step that takes a START, with no further command to come. -/
theorem step_start {s : State} (h : s.phase = .keyed ∨ s.phase = .stream)
    (hreq : s.ports.req = .command 0x20000000#32) (hscript : s.script = []) :
    step s = .next ((s.clearOutput.setPhase .sExpand).underHost { s.ports with req := .none } s.script) := by
  have hready : s.phase.busy = false := by rcases h with h | h <;> simp [h]
  rw [step_command hreq hready (i := .start) rfl, effect_start_ready h,
    hostNext_nil (s.clearOutput.setPhase .sExpand) hscript]
  rfl

/-- Settles O41: the two cases of START's effect; then the step that takes START and the busy run of setup. -/
theorem startOpensAFreshStream : Obligations.StartOpensAFreshStream := by
  refine ⟨fun s h => ?start, fun s h => ?unkeyed, fun s h hreq hscript => ?run⟩
  case start => rw [exec_eq_effect, effect_start_ready h]; rfl
  case unkeyed => rw [exec_eq_effect, effect_start_unkeyed h]; rfl
  case run =>
    have hfree : ((s.clearOutput.setPhase .sExpand).underHost { s.ports with req := .none } s.script).ResetFree :=
      ⟨by simp, by simp [hscript]⟩
    obtain ⟨⟨p, q, hrun, -, hq⟩, -⟩ := busyRun_setup (s := s.clearOutput.setPhase .sExpand) rfl _ _ hfree
    obtain rfl : q = s.script := by rw [hscript] at hq ⊢; exact List.suffix_nil.1 hq
    have hlen : (if s.ivp = true then 12 else 7) = (if s.ivp = true then 11 else 6) + 1 := by split <;> rfl
    rw [hlen]
    exact ⟨p, (run_succ (step_start h hreq hscript) _).trans hrun⟩

end Sys2Proof.Machine
end


section
/-! The function G and the state words of an ITER (spec/41_iteration.md R56 to R58). The 64-bit square loses nothing,
so G folds the exact square; and one rule for the even lanes and one for the odd ones give the eight lines of R58. -/

namespace Sys2Proof.Machine

/-! ### The function G -/

/-- The 64-bit square of a 32-bit word is exact. -/
theorem square_toNat (u : Word) : (u.setWidth 64 * u.setWidth 64).toNat = u.toNat * u.toNat := by
  have hw : (u.setWidth 64).toNat = u.toNat := BitVec.toNat_setWidth_of_le (by decide)
  have hlt : u.toNat * u.toNat < 2 ^ 32 * 2 ^ 32 := Nat.mul_lt_mul'' u.isLt u.isLt
  rw [BitVec.toNat_mul_of_lt (by rwa [hw]), hw]

/-- Folding a 64-bit word as G does leaves its low half XOR its high half. -/
theorem fold_toNat (p : BitVec 64) :
    ((p ^^^ (p >>> 32)).setWidth 32).toNat = (p.toNat % 2 ^ 32) ^^^ (p.toNat / 2 ^ 32) := by
  have hhigh : p.toNat / 2 ^ 32 < 2 ^ 32 := Nat.div_lt_of_lt_mul p.isLt
  rw [BitVec.toNat_setWidth, BitVec.toNat_xor, BitVec.toNat_ushiftRight, Nat.shiftRight_eq_div_pow,
    Nat.xor_mod_two_pow, Nat.mod_eq_of_lt hhigh]

/-- Settles O20: G folds the 64-bit square, and that square is exact. -/
theorem squareAndFold : Obligations.SquareAndFold := by
  intro u
  rw [gFun, fold_toNat, square_toNat]

/-! ### The mixing -/

/-- An even state word after an ITER: both neighbours' `g` rotated by 16 (R58). -/
theorem iter_x_get_even (k : CipherState) (i : Fin 8) (h : i.val % 2 = 0) :
    (iter k).x.get i = (gVector k).get i + ((gVector k).get (i + 7)).rotateLeft 16 +
      ((gVector k).get (i + 6)).rotateLeft 16 := by
  rw [iter_x, mix_get_even _ i h, rotl_eq _ 16 (by decide), rotl_eq _ 16 (by decide)]

/-- An odd state word after an ITER: the nearer neighbour's `g` rotated by 8, the other one's as it is (R58). -/
theorem iter_x_get_odd (k : CipherState) (i : Fin 8) (h : i.val % 2 = 1) :
    (iter k).x.get i = (gVector k).get i + ((gVector k).get (i + 7)).rotateLeft 8 + (gVector k).get (i + 6) := by
  rw [iter_x, mix_get_odd _ i h, rotl_eq _ 8 (by decide)]

/-- Settles O21: the rules for even and odd lanes at the eight lanes, the `g` vector being that of the old `x` and
old `c`. -/
theorem iterMixesLanes : Obligations.IterMixesLanes := by
  intro k g
  have hg : ∀ i, (gVector k).get i = g i := gVector_get k
  have heven := iter_x_get_even k
  have hodd := iter_x_get_odd k
  simp only [hg] at heven hodd
  exact ⟨heven 0 rfl, hodd 1 rfl, heven 2 rfl, hodd 3 rfl, heven 4 rfl, hodd 5 rfl, heven 6 rfl, hodd 7 rfl⟩

end Sys2Proof.Machine
end

section
/-! The counter update of an ITER (spec/42_counter.md R61 to R63). Each lane's word and carry out make up its sum
(`lane_exact`); so the carries form the chain of R62, and the lanes up to any one of them add up as one wide number. -/

namespace Sys2Proof.Machine

/-! ### The chain of carries -/

/-- A word below `2 ^ 32` and a bit that make up a sum are its low part and its overflow. -/
theorem low_and_overflow {word sum : Nat} {carry : Bool} (hword : word < 2 ^ 32)
    (hsum : word + 2 ^ 32 * carry.toNat = sum) :
    word = sum % 2 ^ 32 ∧ carry.toNat = if 2 ^ 32 ≤ sum then 1 else 0 := by
  cases carry with
  | false => rw [Bool.toNat_false] at hsum ⊢; rw [if_neg (by omega)]; omega
  | true => rw [Bool.toNat_true] at hsum ⊢; rw [if_pos (by omega)]; omega

/-- Settles O22: the chain is `carryInto`, and in each lane the word and the carry out make up the exact sum. -/
theorem iterChainsCarries : Obligations.IterChainsCarries := by
  intro k A
  have hA : ∀ i, A.get i = (counterConstants.get i).toNat := by decide
  refine ⟨fun i => (carryInto k.c k.b i).toNat, rfl, rfl, fun i => ?_⟩
  rw [hA, iter_c]
  exact low_and_overflow (BitVec.isLt _) (lane_exact k.c k.b i)

/-! ### One wide addition -/

/-- The first `n` lanes packed into one number, lane 0 least significant (R63). -/
def lowLanes (v : Vec Word 8) : Nat → Nat
  | 0 => 0
  | n + 1 => lowLanes v n + (v.get (Fin.ofNat 8 n)).toNat * 2 ^ (32 * n)

/-- In the first `n` lanes the counter update is one addition, with the carry into lane `n` as the bit above them: lane
`n` adds its own exact sum at weight `2 ^ (32 * n)`, where the carry into it stood. -/
theorem lowLanes_nextCounters (c : Vec Word 8) (b : Bool) {n : Nat} (hn : n ≤ 8) :
    lowLanes (nextCounters c b) n + (carryInto c b n).toNat * 2 ^ (32 * n) =
      lowLanes c n + lowLanes counterConstants n + b.toNat := by
  induction n with
  | zero => simp [lowLanes, carryInto]
  | succ n ih =>
    have hlow := ih (by omega)
    have hlane := lane_exact c b (Fin.ofNat 8 n)
    rw [Fin.val_ofNat, Nat.mod_eq_of_lt (by omega)] at hlane
    have hscaled := congrArg (· * 2 ^ (32 * n)) hlane
    simp only [Nat.add_mul] at hscaled
    have hcarry : (carryInto c b (n + 1)).toNat * 2 ^ (32 * (n + 1)) =
        2 ^ 32 * (carryInto c b (n + 1)).toNat * 2 ^ (32 * n) := by
      rw [Nat.mul_succ, Nat.pow_add, Nat.mul_comm (2 ^ (32 * n)), ← Nat.mul_assoc, Nat.mul_comm (2 ^ 32)]
    rw [lowLanes, lowLanes, lowLanes, hcarry]
    omega

/-- All eight lanes, written out. -/
theorem lowLanes_eight (v : Vec Word 8) : lowLanes v 8 =
    (v.get 0).toNat + (v.get 1).toNat * 2 ^ 32 + (v.get 2).toNat * 2 ^ 64 + (v.get 3).toNat * 2 ^ 96 +
    (v.get 4).toNat * 2 ^ 128 + (v.get 5).toNat * 2 ^ 160 + (v.get 6).toNat * 2 ^ 192 +
    (v.get 7).toNat * 2 ^ 224 := by
  simp only [lowLanes, Nat.zero_add, Nat.mul_zero, Nat.pow_zero, Nat.mul_one]
  rfl

/-- Settles O23: the addition over the first `n` lanes, at all eight. -/
theorem counterUpdateIsOneWideAddition : Obligations.CounterUpdateIsOneWideAddition := by
  intro c b pack
  have hpack : ∀ v, pack v = lowLanes v 8 := fun v => (lowLanes_eight v).symm
  rw [hpack, hpack, hpack]
  exact lowLanes_nextCounters c b (Nat.le_refl 8)

end Sys2Proof.Machine
end

section
/-! Keystream extraction by bytes (spec/43_extract.md R64, R65). A keystream block is its eight words cut into bytes, the
low byte first; and a word is of one of two shapes, the low half of one state word XOR the high half of another. -/

namespace Sys2Proof.Machine

/-- A bit field of a shifted word is the field that lies as much higher in the word itself. -/
theorem extractLsb'_ushiftRight {w : Nat} (v : BitVec w) (n start len : Nat) :
    (v >>> n).extractLsb' start len = v.extractLsb' (n + start) len := by
  apply BitVec.eq_of_getLsbD_eq
  intro i _
  simp only [BitVec.getLsbD_extractLsb', BitVec.getLsbD_ushiftRight, Nat.add_assoc]

/-- The two bytes of a 16-bit word, the low one first (R65). -/
def halfBytes (s : Half) : List Byte := [s.extractLsb' 0 8, s.extractLsb' 8 8]

/-- The keystream block is the little-endian packing of its eight words, in order (R65). -/
theorem keystream_toList (x : Vec Word 8) :
    (keystream x).toList = (streamWords x).toList.flatMap halfBytes := by
  have hbyte (s : Half) : s.setWidth 8 = s.extractLsb' 0 8 := BitVec.setWidth_eq_extractLsb' (by decide)
  simp only [keystream, hbyte, extractLsb'_ushiftRight]
  rfl

/-- A byte of a truncated XOR is the XOR of the two words' bytes at the same place. -/
theorem trunc16_xor_byte (a b : Word) {start : Nat} (h : start + 8 ≤ 16) :
    (trunc16 (a ^^^ b)).extractLsb' start 8 = a.extractLsb' start 8 ^^^ b.extractLsb' start 8 := by
  rw [trunc16, BitVec.extractLsb'_setWidth_of_le h, BitVec.extractLsb'_xor]

/-- The bytes of an even keystream word: low half of `a` XOR high half of `b` (R64). -/
theorem halfBytes_low_xor_high (a b : Word) : halfBytes (trunc16 (a ^^^ (b >>> 16))) =
    [a.extractLsb' 0 8 ^^^ b.extractLsb' 16 8, a.extractLsb' 8 8 ^^^ b.extractLsb' 24 8] := by
  rw [halfBytes, trunc16_xor_byte _ _ (by decide), trunc16_xor_byte _ _ (by decide),
    extractLsb'_ushiftRight, extractLsb'_ushiftRight]

/-- The bytes of an odd keystream word: high half of `a` XOR low half of `b` (R64). -/
theorem halfBytes_high_xor_low (a b : Word) : halfBytes (trunc16 ((a >>> 16) ^^^ b)) =
    [a.extractLsb' 16 8 ^^^ b.extractLsb' 0 8, a.extractLsb' 24 8 ^^^ b.extractLsb' 8 8] := by
  rw [halfBytes, trunc16_xor_byte _ _ (by decide), trunc16_xor_byte _ _ (by decide),
    extractLsb'_ushiftRight, extractLsb'_ushiftRight]

/-- Settles O24: the block is the bytes of its eight words, which are in turn of the two shapes. -/
theorem keystreamByBitFields : Obligations.KeystreamByBitFields := by
  intro x
  apply Vec.toList_inj
  rw [keystream_toList]
  simp only [streamWords, List.flatMap_cons, List.flatMap_nil, halfBytes_low_xor_high, halfBytes_high_xor_low]
  rfl

end Sys2Proof.Machine
end

section
/-! BLOCK and the block advance (spec/44_transform.md R67, R68), each meaning's whole effect; and the words that reach
BLOCK and those with a reserved bit that do not (30_encoding.md R40, R41). -/

namespace Sys2Proof.Machine

/-! ### BLOCK words -/

/-- An encoded BLOCK is read back (R40). -/
theorem decodeCommand_block_word (n : BitVec 5) : decodeCommand (0b0011#4 ++ 0#23 ++ n) = .ok (.block n) := by
  have hword := block_word_toNat n
  have hn := n.isLt
  rcases decodeCommand_cases (0b0011#4 ++ 0#23 ++ n) with ⟨h, -⟩ | ⟨h, -⟩ | ⟨-, hd⟩ | ⟨-, -, h, -⟩
  · omega
  · omega
  · have hfield : nField (0b0011#4 ++ 0#23 ++ n) = n := by
      apply BitVec.eq_of_toNat_eq
      rw [nField, extractLsb'_toNat]
      omega
    rw [hd, hfield]
  · omega

/-- A BLOCK word with a bit of 27:5 set matches no row (R41 (d)). -/
theorem decodeCommand_block_reserved {w : Word} (hop : w.extractLsb' 28 4 = 3#4) (hz : w.extractLsb' 5 23 ≠ 0#23) :
    ∃ e, decodeCommand w = .error e := by
  have hop' : w.toNat / 2 ^ 28 % 2 ^ 4 = 3 := by rw [← extractLsb'_toNat, hop]; rfl
  have hz' : w.toNat / 2 ^ 5 % 2 ^ 23 ≠ 0 := by
    rw [← extractLsb'_toNat]
    exact fun h => hz (BitVec.eq_of_toNat_eq h)
  rcases decodeCommand_cases w with ⟨h, -⟩ | ⟨h, -⟩ | ⟨h, -⟩ | ⟨-, -, -, hd⟩
  · omega
  · omega
  · omega
  · exact ⟨_, hd⟩

/-- A ready engine takes a reserved word as a ProtocolError (R46, R76). -/
theorem engineStep_reserved {s : State} {e : Reject} {w : Word} (hreq : s.ports.req = .command w)
    (hready : s.phase.busy = false) (hd : decodeCommand w = .error e) :
    engineStep s = .next (s.raise .protocolError) := by
  simp [engineStep, State.event, State.eventNoReset, State.rejectWord, hreq, hready, hd]

/-! ### The effects -/

/-- A legal BLOCK in an open stream (R67). -/
theorem effect_block_stream {s : State} {n : BitVec 5} (h : s.phase = .stream) (hlo : 1 ≤ n.toNat)
    (hhi : n.toNat ≤ 16) : effect (.block n) s =
      ((s.setOutput (blockOutput s.din (keystream s.x) n.toNat) n).setLast (isShort n)).setPhase .bIter := by
  have hready : ¬ s.phase.busy = true := by simp [h]
  exact (if_neg hready).trans (if_pos ⟨h, (legalCount_iff n).2 ⟨hlo, hhi⟩⟩)

/-- Any other BLOCK that a ready engine takes is a ProtocolError (R67). -/
theorem effect_block_fault {s : State} {n : BitVec 5} (hready : s.phase.busy = false)
    (h : s.phase ≠ .stream ∨ n.toNat = 0 ∨ 16 < n.toNat) : effect (.block n) s = s.raise .protocolError := by
  refine (if_neg (by simp [hready])).trans (if_neg fun hlegal => ?_)
  obtain ⟨hphase, hcount⟩ := hlegal
  rw [legalCount_iff] at hcount
  rcases h with h | h | h
  · exact h hphase
  · omega
  · omega

/-- Settles O14: the two cases of BLOCK's effect, and the words that do not reach it. -/
theorem blockXorsKeystreamOrFaults : Obligations.BlockXorsKeystreamOrFaults := by
  refine ⟨fun s n hphase hlo hhi => ?legal, fun s n hready h => ?fault, fun s w hreq hready hop hz => ?reserved⟩
  case legal => rw [exec_eq_effect, effect_block_stream hphase hlo hhi]; rfl
  case fault => rw [exec_eq_effect, effect_block_fault hready h]; rfl
  case reserved =>
    obtain ⟨e, hd⟩ := decodeCommand_block_reserved hop hz
    exact engineStep_reserved hreq hready hd

/-- Settles O19: the effect of ITER.BLOCK, written out as a record. -/
theorem blockAdvanceIterates : Obligations.BlockAdvanceIterates := by
  intro s
  rw [exec_eq_effect, effect]
  rfl

end Sys2Proof.Machine
end

section
/-! Cutting a buffer into blocks (spec/20_memory.md R31) and the length of what `Transform` makes of it
(44_transform.md R69, R71). A buffer with a byte in it is its first block and the cut of the rest, so what is said of
buffers is proved block by block. -/

namespace Sys2Proof.Machine

/-- Fuel from the length on does not matter. -/
theorem cutBlocksFuel_eq_cutBlocks {fuel : Nat} {buf : List Byte} (h : buf.length ≤ fuel) :
    cutBlocksFuel fuel buf = cutBlocks buf := by
  suffices ∀ n m (l : List Byte), l.length ≤ n → l.length ≤ m → cutBlocksFuel n l = cutBlocksFuel m l from
    this _ _ _ h (Nat.le_refl _)
  intro n
  induction n with
  | zero =>
    intro m l hn _
    obtain rfl : l = [] := List.eq_nil_of_length_eq_zero (by omega)
    cases m <;> rfl
  | succ n ih =>
    intro m l hn hm
    cases l with
    | nil => cases m <;> rfl
    | cons a rest =>
      cases m with
      | zero => simp at hm
      | succ m =>
        rw [List.length_cons] at hn hm
        have hdrop : ((a :: rest).drop Config.blockBytes).length ≤ rest.length := by
          rw [List.length_drop, List.length_cons, Config.blockBytes]; omega
        rw [cutBlocksFuel, cutBlocksFuel, ih m _ (by omega) (by omega)]

@[simp] theorem cutBlocks_nil : cutBlocks [] = [] := rfl

/-- The first block of a buffer, and the cut of the rest (R31). -/
theorem cutBlocks_of_ne_nil {buf : List Byte} (h : buf ≠ []) :
    cutBlocks buf = buf.take 16 :: cutBlocks (buf.drop 16) := by
  cases buf with
  | nil => exact absurd rfl h
  | cons a rest =>
    rw [cutBlocks, List.length_cons, cutBlocksFuel, cutBlocksFuel_eq_cutBlocks]
    rw [List.length_drop, List.length_cons, Config.blockBytes]; omega

/-- What holds of the empty buffer, and of every other when it holds of the buffer without its first block, holds of
every buffer. -/
theorem block_induction {motive : List Byte → Prop} (nil : motive [])
    (block : ∀ buf, buf ≠ [] → motive (buf.drop 16) → motive buf) (buf : List Byte) : motive buf := by
  by_cases hbuf : buf = []
  · rwa [hbuf]
  · exact block buf hbuf (block_induction nil block (buf.drop 16))
termination_by buf.length
decreasing_by
  have hpos := List.length_pos_iff.2 hbuf
  rw [List.length_drop]
  omega

theorem xorBlock_length (blk : List Byte) (ks : Vec Byte 16) : (xorBlock blk ks).length = min blk.length 16 := by
  rw [xorBlock, List.length_zipWith, ks.length_eq]

theorem transformBlocks_cutBlocks_length (k : CipherState) (buf : List Byte) :
    (transformBlocks k (cutBlocks buf)).length = buf.length := by
  induction buf using block_induction generalizing k with
  | nil => rfl
  | block buf hbuf ih =>
    rw [cutBlocks_of_ne_nil hbuf, transformBlocks, List.length_append, xorBlock_length, ih, List.length_take,
      List.length_drop]
    omega

/-- `Transform` keeps the length (R71). -/
theorem transform_length (K : Vec Byte 16) (iv : Option (Vec Byte 8)) (buf : List Byte) :
    (transform K iv buf).length = buf.length :=
  transformBlocks_cutBlocks_length _ _

end Sys2Proof.Machine
end

section
/-! TRANSFORM as a host issues it (spec/30_encoding.md R45, 44_transform.md R69 to R71). A line that a ready engine
takes is the effect of its command; a WAIT is the busy run that is pending; so START with its WAIT opens the stream,
each BLOCK with its WAIT gives one block of output and advances, and the blocks of a buffer follow by induction. -/

namespace Sys2Proof.Machine

/-! ### Lines -/

theorem stepped_of_step {s t : State} (h : step s = .next t) : s.stepped = t := by simp [State.stepped, h]

/-- A command presented to a ready engine, with nothing to come after it, is taken in one step. -/
theorem untilTaken_command {s : State} {w : Word} {i : Instr} (hreq : s.ports.req = .command w)
    (hscript : s.script = []) (hready : s.phase.busy = false) (hd : decodeCommand w = .ok i) (fuel : Nat) :
    s.untilTaken (fuel + 2) = (effect i s).underHost { s.ports with req := .none } [] := by
  have htaken : (effect i s).hostNext = (effect i s).underHost { s.ports with req := .none } [] := by
    rw [hostNext_nil _ (by rw [effect_script, hscript]), effect_ports, State.underHost]
    simp [hscript]
  rw [State.untilTaken, if_neg (by simp [hreq]), stepped_of_step (step_command hreq hready hd), htaken,
    State.untilTaken, if_pos (by rfl)]

/-- A line other than WAIT is presented until it is taken. -/
theorem perform_of_ne_wait (u : PortBytes) (s : State) {l : Line} (hl : l ≠ .wait) :
    s.perform u l = (s.present (l.ports u)).untilTaken (waitFuel + 1) := by
  cases l with
  | wait => exact absurd rfl hl
  | reset | construct | start | block | blockN => rfl

/-- A ready engine performs a command line by the effect of the command, the line's bytes standing on its ports. -/
theorem perform_command {u : PortBytes} {s : State} {l : Line} {w : Word} {i : Instr} (hl : l ≠ .wait)
    (hreq : (l.ports u).req = .command w) (hd : decodeCommand w = .ok i) (hready : s.phase.busy = false) :
    s.perform u l = (effect i (s.underHost (l.ports u) [])).underHost { l.ports u with req := .none } [] :=
  (perform_of_ne_wait u s hl).trans (untilTaken_command (s := s.underHost (l.ports u) []) hreq rfl hready hd 10)

/-- Waiting ends where a run ends whose last state alone is ready. -/
theorem waitReady_of_run {n fuel : Nat} {s t : State} (hrun : Host.Core.run core n s = .next t)
    (hbusy : ∀ m, m < n → ∃ u, Host.Core.run core m s = .next u ∧ u.phase.busy = true)
    (hready : t.phase.busy = false) (hfuel : n ≤ fuel) : s.waitReady fuel = t := by
  induction n generalizing s fuel with
  | zero =>
    obtain rfl : s = t := next_inj.1 hrun
    cases fuel with
    | zero => rfl
    | succ fuel => rw [State.waitReady, if_neg (by simp [hready])]
  | succ n ih =>
    obtain ⟨fuel, rfl⟩ : ∃ k, fuel = k + 1 := ⟨fuel - 1, by omega⟩
    obtain ⟨v, hs, hv⟩ := hbusy 0 (by omega)
    obtain rfl : s = v := next_inj.1 hs
    obtain ⟨v, hstep⟩ := step_eq_next s
    rw [State.waitReady, if_pos hv, stepped_of_step hstep]
    rw [run_succ hstep] at hrun
    refine ih hrun (fun m hm => ?_) (by omega)
    rw [← run_succ hstep]
    exact hbusy (m + 1) (by omega)

/-- A WAIT performs the busy run that is pending. -/
theorem perform_wait {n : Nat} {s t : State} (h : BusyRun n s t) (hready : t.phase.busy = false)
    (hfuel : n ≤ waitFuel) (u : PortBytes) (p : Ports) (q : List Ports) :
    ∃ p' q', (s.underHost p q).perform u .wait = t.underHost p' q' := by
  have hfree : (s.underHost (Line.wait.ports u) []).ResetFree := ⟨by simp [Line.ports], by simp⟩
  obtain ⟨⟨p', q', hrun, -, -⟩, hbusy⟩ := h _ _ hfree
  exact ⟨p', q', waitReady_of_run hrun hbusy hready hfuel⟩

/-! ### What a transform leaves as it is -/

/-- The two engines hold the same key, IV and flags. -/
structure State.SameKeyAndFlags (s t : State) : Prop where
  K : t.K = s.K
  IV : t.IV = s.IV
  ivp : t.ivp = s.ivp
  ekey : t.ekey = s.ekey
  eiv : t.eiv = s.eiv
  eproto : t.eproto = s.eproto

theorem State.SameKeyAndFlags.trans {s t v : State} (h₁ : s.SameKeyAndFlags t) (h₂ : t.SameKeyAndFlags v) :
    s.SameKeyAndFlags v :=
  ⟨h₂.K.trans h₁.K, h₂.IV.trans h₁.IV, h₂.ivp.trans h₁.ivp, h₂.ekey.trans h₁.ekey, h₂.eiv.trans h₁.eiv,
    h₂.eproto.trans h₁.eproto⟩

/-! ### START and WAIT -/

/-- A START line begins setup. -/
theorem perform_start (u : PortBytes) {s : State} (h : s.phase = .keyed ∨ s.phase = .stream) :
    ∃ p, s.perform u .start = (s.clearOutput.setPhase .sExpand).underHost p [] := by
  have hready : s.phase.busy = false := by rcases h with h | h <;> simp [h]
  refine ⟨{ Line.start.ports u with req := .none }, ?_⟩
  rw [perform_command (i := .start) (by simp) rfl rfl hready,
    effect_start_ready (s := s.underHost (Line.start.ports u) []) h]
  rfl

/-- START and its WAIT open a stream with a fresh setup, and the host collects nothing (R48, R54). -/
theorem performAll_start_wait (u : Nat → PortBytes) {s : State} (h : s.phase = .keyed ∨ s.phase = .stream) :
    ∃ t : State, t.phase = .stream ∧ t.cipher = setup s.K s.heldIv ∧ s.SameKeyAndFlags t ∧
      ∀ rest, s.performAll u (.start :: .wait :: rest) = t.performAll (fun i => u (i + 2)) rest := by
  have hfuel : (if s.ivp then 11 else 6) ≤ waitFuel := by cases s.ivp <;> decide
  obtain ⟨p, hstart⟩ := perform_start (u 0) h
  obtain ⟨p', q', hwait⟩ :=
    perform_wait (busyRun_setup (s := s.clearOutput.setPhase .sExpand) rfl) rfl hfuel (u 1) p []
  refine ⟨((s.clearOutput.setPhase .sExpand).arriveAt (setup s.K s.heldIv) .stream).underHost p' q',
    rfl, rfl, ⟨rfl, rfl, rfl, rfl, rfl, rfl⟩, fun rest => ?_⟩
  rw [State.performAll, State.performAll, hstart, hwait]
  rfl

/-! ### BLOCK and WAIT -/

/-- The engine after it has taken a legal BLOCK of `n` bytes (R67). -/
def State.blockTaken (s : State) (din : Vec Byte 16) (n : BitVec 5) : State :=
  ((s.setOutput (blockOutput din (keystream s.x) n.toNat) n).setLast (isShort n)).setPhase .bIter

/-- A BLOCK line with 1 to 16 bytes is a legal BLOCK of so many bytes. -/
theorem perform_block (u : PortBytes) {s : State} {blk : List Byte} (h : s.phase = .stream)
    (hlo : 1 ≤ blk.length) (hhi : blk.length ≤ 16) :
    ∃ p, s.perform u (.block blk) = (s.blockTaken (onPort u.din blk) (claimedCount blk)).underHost p [] := by
  have hcount : (claimedCount blk).toNat = blk.length := by rw [claimedCount_toNat]; omega
  refine ⟨{ (Line.block blk).ports u with req := .none }, ?_⟩
  rw [perform_command (l := .block blk) (by simp) rfl (decodeCommand_block_word (claimedCount blk)) (by simp [h]),
    effect_block_stream (s := s.underHost ((Line.block blk).ports u) []) h (by omega) (by omega)]
  rfl

/-- What the host reads of a block: the bytes of its line XOR the keystream block (R67, R69). -/
theorem blockOutput_onPort_first (stands ks : Vec Byte 16) {blk : List Byte} (h : blk.length ≤ 16) :
    (blockOutput (onPort stands blk) ks blk.length).first blk.length = xorBlock blk ks := by
  apply List.ext_getElem
  · rw [Vec.first, List.length_take, Vec.length_eq, xorBlock_length]
  · intro i hi hi'
    have hlt : i < blk.length := by rw [xorBlock_length] at hi'; omega
    simp [Vec.first, xorBlock, Vec.toList_getElem, hlt]

theorem output_blockTaken (s : State) (stands : Vec Byte 16) {blk : List Byte} (h : blk.length ≤ 16) :
    (s.blockTaken (onPort stands blk) (claimedCount blk)).output = xorBlock blk (keystream s.x) := by
  have hcount : (claimedCount blk).toNat = blk.length := by rw [claimedCount_toNat]; omega
  change (blockOutput _ _ (claimedCount blk).toNat).first (claimedCount blk).toNat = _
  rw [hcount, blockOutput_onPort_first stands _ h]

/-- The advance of a taken BLOCK leaves a ready engine (R68). -/
theorem effect_iterBlock_ready (s : State) : (effect .iterBlock s).phase.busy = false := by
  cases h : s.last <;> simp [effect, h]

/-- BLOCK with 1 to 16 bytes and its WAIT, in an open stream: the host collects the bytes XOR the keystream block, and
the engine has iterated once; after fewer than 16 bytes the stream is over (R67, R68). -/
theorem performAll_block_wait (u : Nat → PortBytes) {s : State} {blk : List Byte} (h : s.phase = .stream)
    (hlo : 1 ≤ blk.length) (hhi : blk.length ≤ 16) :
    ∃ t : State, t.phase = (if blk.length < 16 then .keyed else .stream) ∧ t.cipher = iter s.cipher ∧
      s.SameKeyAndFlags t ∧
      ∀ rest, s.performAll u (.block blk :: .wait :: rest) =
        ((t.performAll (fun i => u (i + 2)) rest).1,
          xorBlock blk (keystream s.x) ++ (t.performAll (fun i => u (i + 2)) rest).2) := by
  have hshort : isShort (claimedCount blk) = decide (blk.length < 16) := by
    rw [isShort, claimedCount_toNat, Nat.min_eq_left (by omega)]
  obtain ⟨p, hblock⟩ := perform_block (u 0) h hlo hhi
  have hadvance := busyRun_microOp (i := .iterBlock)
    (s := s.blockTaken (onPort (u 0).din blk) (claimedCount blk)) rfl
  obtain ⟨p', q', hwait⟩ := perform_wait hadvance (effect_iterBlock_ready _) (by decide) (u 1) p []
  refine ⟨(effect .iterBlock (s.blockTaken (onPort (u 0).din blk) (claimedCount blk))).underHost p' q',
    ?phase, rfl, ⟨rfl, rfl, rfl, rfl, rfl, rfl⟩, fun rest => ?run⟩
  case phase =>
    change (if isShort (claimedCount blk) = true then Phase.keyed else .stream) = _
    rw [hshort]
    simp only [decide_eq_true_eq]
  case run =>
    rw [State.performAll, State.performAll, hblock, hwait, ← output_blockTaken s (u 0).din hhi]
    rfl

/-! ### The blocks of a buffer -/

/-- In an open stream, the blocks of a buffer: the host collects the loop of `Transform`, and the stream is still open
exactly when no block was short. -/
theorem performAll_blockLines (u : Nat → PortBytes) {s : State} (h : s.phase = .stream) (buf : List Byte) :
    (s.performAll u (blockLines (cutBlocks buf))).2 = transformBlocks s.cipher (cutBlocks buf) ∧
    (s.performAll u (blockLines (cutBlocks buf))).1.phase = (if buf.length % 16 = 0 then .stream else .keyed) ∧
    s.SameKeyAndFlags (s.performAll u (blockLines (cutBlocks buf))).1 := by
  induction buf using block_induction generalizing u s with
  | nil => exact ⟨rfl, h, ⟨rfl, rfl, rfl, rfl, rfl, rfl⟩⟩
  | block buf hbuf ih =>
    have hpos := List.length_pos_iff.2 hbuf
    have hlen : (buf.take 16).length = min 16 buf.length := List.length_take
    obtain ⟨t, hphase, hcipher, hsame, hrun⟩ :=
      performAll_block_wait u (blk := buf.take 16) h (by omega) (by omega)
    rw [cutBlocks_of_ne_nil hbuf, blockLines, transformBlocks, hrun]
    by_cases hfull : 16 ≤ buf.length
    · rw [if_neg (by omega)] at hphase
      obtain ⟨hout, hend, hsame'⟩ := ih (fun i => u (i + 2)) hphase
      have hmod : (buf.drop 16).length % 16 = buf.length % 16 := by rw [List.length_drop]; omega
      rw [hmod] at hend
      exact ⟨by rw [hout, hcipher, cipher_x], hend, hsame.trans hsame'⟩
    · have hnil : buf.drop 16 = [] := List.drop_eq_nil_of_le (by omega)
      rw [if_pos (by omega)] at hphase
      rw [hnil, if_neg (by omega)]
      exact ⟨rfl, hphase, hsame⟩

/-- TRANSFORM from `KEYED` or `STREAM`: what the host collects, where the engine ends, and what it leaves unchanged. -/
theorem performAll_transformLines (u : Nat → PortBytes) {s : State} (h : s.phase = .keyed ∨ s.phase = .stream)
    (buf : List Byte) :
    (s.performAll u (transformLines buf)).2 = transform s.K s.heldIv buf ∧
    (s.performAll u (transformLines buf)).1.phase = (if buf.length % 16 = 0 then .stream else .keyed) ∧
    s.SameKeyAndFlags (s.performAll u (transformLines buf)).1 := by
  obtain ⟨t, hphase, hcipher, hsame, hrun⟩ := performAll_start_wait u h
  obtain ⟨hout, hend, hsame'⟩ := performAll_blockLines (fun i => u (i + 2)) hphase buf
  rw [transformLines, hrun]
  exact ⟨by rw [hout, hcipher, transform], hend, hsame.trans hsame'⟩

/-- Settles O42: START opens the stream of `Setup`, and the blocks run the loop of `Transform`. -/
theorem commandsComputeTransform : Obligations.CommandsComputeTransform :=
  fun u _ buf h => (performAll_transformLines u h buf).1

/-- Settles O44: the bytes are those of `Transform`, which keeps the length; the last block is short exactly when 16
does not divide it. -/
theorem transformKeepsLengthAndEndsReady : Obligations.TransformKeepsLengthAndEndsReady := by
  intro u s buf h r
  obtain ⟨hout, hend, hsame⟩ := performAll_transformLines u h buf
  exact ⟨by rw [hout, transform_length], hend, hsame.K, hsame.IV, hsame.ivp, hsame.ekey, hsame.eiv, hsame.eproto⟩

end Sys2Proof.Machine
end

section
/-! Faults raised when a command word is accepted (spec/60_exceptions.md R74 to R76): the two length faults of a
CONSTRUCT word, and the ProtocolError of every word that is no acceptable command. -/

namespace Sys2Proof.Machine

/-! ### The acceptance of a word -/

/-- A ready engine runs the command that is presented (R46). -/
theorem engineStep_command {s : State} {i : Instr} {w : Word} (hreq : s.ports.req = .command w)
    (hready : s.phase.busy = false) (hd : decodeCommand w = .ok i) : engineStep s = exec i s := by
  simp only [engineStep, State.event, State.eventNoReset, hreq, hready, hd, Bool.false_eq_true, if_false]

/-- A word in the CONSTRUCT row, by mask and match, decodes to CONSTRUCT with the word's fields (R38, R40). -/
theorem decodeCommand_construct {w : Word} (h : w &&& 0xFFFE0000#32 = 0x10000000#32) :
    decodeCommand w = .ok (.construct (ivpField w) (ivlenField w) (klenField w)) :=
  if_pos (decide_eq_true h)

/-- A ready engine runs a presented START or BLOCK that its phase, or the count, does not allow as a ProtocolError
(R41 (e), (f)). -/
theorem engineStep_fault {s : State} {i : Instr} {w : Word} (hreq : s.ports.req = .command w)
    (hready : s.phase.busy = false) (hd : decodeCommand w = .ok i) (hfault : effect i s = s.raise .protocolError) :
    engineStep s = .next (s.raise .protocolError) := by
  rw [engineStep_command hreq hready hd, exec_eq_effect, hfault]

/-! ### The faults -/

/-- Settles O11: by the row the word is decoded by; a START is then in `UNKEYED`, a BLOCK outside `STREAM` or with an
illegal count, and a word in no row is reserved. -/
theorem otherWordsAreProtocolErrors : Obligations.OtherWordsAreProtocolErrors := by
  intro s w hreq hready hconstruct hstart hblock
  rcases decodeCommand_cases w with ⟨hrow, -⟩ | ⟨hrow, hd⟩ | ⟨hrow, hd⟩ | ⟨-, -, -, hd⟩
  · exact absurd (of_decide_eq_true ((constructRow_holds w).2 hrow)) hconstruct
  · have hword : w = 0x20000000#32 := BitVec.eq_of_toNat_eq hrow
    have hphase : s.phase = .unkeyed :=
      ((ready_iff s.phase).1 hready).resolve_right fun h => hstart ⟨hword, h⟩
    exact engineStep_fault hreq hready hd (effect_start_unkeyed hphase)
  · have hmatch : w &&& 0xFFFFFFE0#32 = 0x30000000#32 := of_decide_eq_true ((blockRow_holds w).2 hrow)
    have hillegal : s.phase ≠ .stream ∨ (nField w).toNat = 0 ∨ 16 < (nField w).toNat := by
      by_cases hphase : s.phase = .stream
      · have hcount : ¬ (1 ≤ (nField w).toNat ∧ (nField w).toNat ≤ 16) :=
          fun ⟨hlo, hhi⟩ => hblock ⟨hmatch, hlo, hhi, hphase⟩
        exact .inr (by omega)
      · exact .inl hphase
    exact engineStep_fault hreq hready hd (effect_block_fault hready hillegal)
  · exact engineStep_reserved hreq hready hd

/-- Settles O13: the word decodes to CONSTRUCT with its own fields, and each clause selects one case of CONSTRUCT's
whole effect. -/
theorem lengthFaultsOfConstructWords : Obligations.LengthFaultsOfConstructWords := by
  intro s w hreq hready hword
  have hstep := (engineStep_command hreq hready (decodeCommand_construct hword)).trans
    (constructChecksAndLatches s (ivpField w) (ivlenField w) (klenField w) hready)
  refine ⟨fun (hklen : (klenField w).toNat ≠ 16) => ?key,
    fun (hklen : (klenField w).toNat = 16) (hivp : ivpField w = true) (hivlen : (ivlenField w).toNat ≠ 8) => ?iv,
    fun (hklen : (klenField w).toNat = 16) (hivp : ivpField w = false) => ?neither⟩
  case key => rw [hstep, if_pos hklen]
  case iv => rw [hstep, if_neg (not_not_intro hklen), if_pos ⟨hivp, hivlen⟩]
  case neither =>
    have hno : ¬ (ivpField w = true ∧ (ivlenField w).toNat ≠ 8) :=
      fun ⟨hpresent, _⟩ => Bool.false_ne_true (hivp.symm.trans hpresent)
    rw [if_neg (not_not_intro hklen), if_neg hno] at hstep
    exact ⟨_, hstep, rfl, rfl, rfl⟩

end Sys2Proof.Machine
end

section
/-! Reset (spec/70_reset_and_hazards.md R84). The state after a reset step is the reset state under whatever the host
drives next: nothing of the engine before it is left. -/

namespace Sys2Proof.Machine

/-- The host's move is the host's side alone: the engine is the same under the host's next ports and script. -/
theorem hostNext_eq_underHost (s : State) :
    s.hostNext = s.underHost s.hostNext.ports s.hostNext.script := by
  cases hscript : s.script with
  | nil => rw [hostNext_nil s hscript]; rfl
  | cons p rest => rw [hostNext_cons s p rest hscript]; rfl

/-- A reset step, whatever the phase, answers the reset state under some host. -/
theorem step_reset_underHost {s : State} (h : s.ports.req = .reset) :
    ∃ p q, step s = .next (State.reset.underHost p q) := by
  have hengine (p : Ports) (q : List Ports) : s.resetEngine.underHost p q = State.reset.underHost p q := rfl
  exact ⟨_, _, by rw [step_reset h, hostNext_eq_underHost, hengine]⟩

/-- `STATUS` is a function of the engine's registers: the host's side does not show in it (R21). -/
theorem underHost_status (s : State) (p : Ports) (q : List Ports) : (s.underHost p q).status = s.status := rfl

theorem reset_status : State.reset.status = 0x00#8 := by decide

/-- Settles O26: the reset state has every register at its reset value, under every host. -/
theorem resetClearsEveryRegister : Obligations.ResetClearsEveryRegister := by
  intro s h
  obtain ⟨p, q, hstep⟩ := step_reset_underHost h
  exact ⟨_, hstep, rfl, rfl, rfl, rfl, rfl, rfl, rfl, rfl, rfl, rfl, rfl, rfl, rfl, rfl,
    (underHost_status State.reset p q).trans reset_status⟩

end Sys2Proof.Machine
end

section
/-! Decoding and encoding undo each other (spec/30_encoding.md R38 to R42), and the words that no row of the opcode map
matches, by their fields (R41). A row, a field and an encoded word are each arithmetic on the number of the word. -/

namespace Sys2Proof.Machine

/-! ### Fields -/

/-- What a bit field holds, by the number of the word. -/
theorem extractLsb'_eq_iff (w : Word) (start len : Nat) (v : BitVec len) :
    w.extractLsb' start len = v ↔ w.toNat / 2 ^ start % 2 ^ len = v.toNat := by
  rw [← BitVec.toNat_inj, extractLsb'_toNat]

theorem ivpField_toNat (w : Word) : (ivpField w).toNat = w.toNat / 2 ^ 16 % 2 := by
  cases hivp : ivpField w with
  | true => rw [(ivpField_iff w).1 hivp]; rfl
  | false =>
    have hclear : ¬ w.toNat / 2 ^ 16 % 2 = 1 := by rw [← ivpField_iff, hivp]; simp
    rw [Bool.toNat_false]; omega

theorem ivlenField_toNat (w : Word) : (ivlenField w).toNat = w.toNat / 2 ^ 8 % 2 ^ 8 := extractLsb'_toNat w 8 8

theorem klenField_toNat (w : Word) : (klenField w).toNat = w.toNat / 2 ^ 0 % 2 ^ 8 := extractLsb'_toNat w 0 8

theorem nField_toNat (w : Word) : (nField w).toNat = w.toNat / 2 ^ 0 % 2 ^ 5 := extractLsb'_toNat w 0 5

/-! ### Decoding an encoding -/

/-- An encoded CONSTRUCT is read back (R40). -/
theorem decodeCommand_construct_word (ivp : Bool) (ivlen klen : Byte) :
    decodeCommand (0b0001#4 ++ 0#11 ++ BitVec.ofBool ivp ++ ivlen ++ klen) = .ok (.construct ivp ivlen klen) := by
  have hword := construct_word_toNat ivp ivlen klen
  have hivlen := ivlen.isLt
  have hklen := klen.isLt
  have hivp := Bool.toNat_le ivp
  rcases decodeCommand_cases (0b0001#4 ++ 0#11 ++ BitVec.ofBool ivp ++ ivlen ++ klen) with
    ⟨-, hd⟩ | ⟨h, -⟩ | ⟨h, -⟩ | ⟨h, -⟩
  · have hp : ivpField (0b0001#4 ++ 0#11 ++ BitVec.ofBool ivp ++ ivlen ++ klen) = ivp := by
      rw [Bool.eq_iff_iff, ivpField_iff, ← Bool.toNat_eq_one]
      omega
    have hv : ivlenField (0b0001#4 ++ 0#11 ++ BitVec.ofBool ivp ++ ivlen ++ klen) = ivlen := by
      apply BitVec.eq_of_toNat_eq
      rw [ivlenField_toNat]
      omega
    have hk : klenField (0b0001#4 ++ 0#11 ++ BitVec.ofBool ivp ++ ivlen ++ klen) = klen := by
      apply BitVec.eq_of_toNat_eq
      rw [klenField_toNat]
      omega
    rw [hd, hp, hv, hk]
  · omega
  · omega
  · omega

/-- Settles O1: CONSTRUCT and BLOCK by the number of their word; the other encodings are fixed codes. -/
theorem decodeOfEncodeIsTheInstruction : Obligations.DecodeOfEncodeIsTheInstruction := by
  intro i
  cases i with
  | construct ivp ivlen klen => exact decodeCommand_construct_word ivp ivlen klen
  | block n => exact decodeCommand_block_word n
  | start | expand | iterWarm | remix | ivmix | iterIvwarm | iterBlock => rfl

/-! ### Encoding what was decoded -/

theorem encode_of_decodeCommand {w : Word} {i : Instr} (h : decodeCommand w = .ok i) : encode i = .cmd32 w := by
  rcases decodeCommand_cases w with ⟨hrow, hd⟩ | ⟨hrow, hd⟩ | ⟨hrow, hd⟩ | ⟨-, -, -, hd⟩ <;>
    rw [hd] at h <;> cases h
  · refine congrArg Code.cmd32 (BitVec.eq_of_toNat_eq ((construct_word_toNat _ _ _).trans ?_))
    rw [ivpField_toNat, ivlenField_toNat, klenField_toNat]
    omega
  · exact congrArg Code.cmd32 (BitVec.eq_of_toNat_eq hrow.symm)
  · refine congrArg Code.cmd32 (BitVec.eq_of_toNat_eq ((block_word_toNat _).trans ?_))
    rw [nField_toNat]
    omega

theorem encode_of_decodeMicroOp {p : BitVec 4} {i : Instr} (h : decodeMicroOp p = .ok i) : encode i = .uop4 p := by
  have hcodes : ∀ q : BitVec 4, ∀ j ∈ decoded (decodeMicroOp q), encode j = .uop4 q := by decide
  exact hcodes p i (by rw [h]; rfl)

/-- Settles O2: a word by its row and fields, a phase code among the sixteen. -/
theorem encodeOfDecodeIsTheCode : Obligations.EncodeOfDecodeIsTheCode := by
  intro code i h
  cases code with
  | cmd32 w => exact encode_of_decodeCommand h
  | uop4 p => exact encode_of_decodeMicroOp h

/-! ### Reserved words, and the fixed codes -/

/-- A word is rejected exactly when it lies in no row. -/
theorem decodeCommand_error_iff (w : Word) : (∃ e, decodeCommand w = .error e) ↔
    w.toNat / 2 ^ 17 ≠ 2048 ∧ w.toNat ≠ 536870912 ∧ w.toNat / 2 ^ 5 ≠ 25165824 := by
  rcases decodeCommand_cases w with ⟨hrow, hd⟩ | ⟨hrow, hd⟩ | ⟨hrow, hd⟩ | ⟨hc, hs, hb, hd⟩
  · simp only [hd, reduceCtorEq, exists_false, false_iff]; omega
  · simp only [hd, reduceCtorEq, exists_false, false_iff]; omega
  · simp only [hd, reduceCtorEq, exists_false, false_iff]; omega
  · exact ⟨fun _ => ⟨hc, hs, hb⟩, fun _ => ⟨_, hd⟩⟩

/-- The three rows by the fields of R38: the `OP` of the row, and every must-be-zero bit clear. -/
theorem rows_by_field {n : Nat} (h : n < 2 ^ 32) :
    (n / 2 ^ 17 = 2048 ↔ n / 2 ^ 28 % 2 ^ 4 = 1 ∧ n / 2 ^ 17 % 2 ^ 11 = 0) ∧
    (n = 536870912 ↔ n / 2 ^ 28 % 2 ^ 4 = 2 ∧ n / 2 ^ 0 % 2 ^ 28 = 0) ∧
    (n / 2 ^ 5 = 25165824 ↔ n / 2 ^ 28 % 2 ^ 4 = 3 ∧ n / 2 ^ 5 % 2 ^ 23 = 0) := by
  refine ⟨?_, ?_, ?_⟩ <;> omega

/-- Settles O4: the rows by their fields; at most one of the three `OP` values is the word's. -/
theorem reservedWordsByField : Obligations.ReservedWordsByField := by
  intro w
  obtain ⟨hconstruct, hstart, hblock⟩ := rows_by_field w.isLt
  rw [decodeCommand_error_iff, ne_eq, ne_eq, ne_eq, hconstruct, hstart, hblock]
  simp only [ne_eq, extractLsb'_eq_iff, BitVec.toNat_ofNat, Nat.reducePow, Nat.reduceMod]
  generalize w.toNat / 268435456 % 16 = op
  by_cases h1 : op = 1
  · simp [h1]
  · by_cases h2 : op = 2
    · simp [h2]
    · by_cases h3 : op = 3
      · simp [h3]
      · simp [h1, h2, h3]

/-- Settles O3: each word evaluates. -/
theorem specWordsDecodeAsWritten : Obligations.SpecWordsDecodeAsWritten :=
  ⟨rfl, rfl, rfl, rfl, rfl, rfl, rfl, rfl, rfl, rfl, rfl, rfl, rfl, rfl⟩

/-- Settles O5: the codes are finitely many; a phase's micro-operation is that of its code. -/
theorem phaseCodesSelectMicroOps : Obligations.PhaseCodesSelectMicroOps := by
  refine ⟨fun p => by cases p <;> rfl, by decide, fun p => ?_⟩
  simp only [microOp_iff]
  exact ⟨microOp_of_busy p, fun ⟨i, hi⟩ => busy_of_microOp p i hi⟩

end Sys2Proof.Machine
end

section
/-! What a step runs (spec/30_encoding.md R42, R46; 60_exceptions.md R82, R83): the presented command, the phase's
micro-operation with or without a command held, or nothing; and that a step always goes on. -/

namespace Sys2Proof.Machine

/-! ### The engine and the host's side -/

/-- A micro-operation leaves the host's side as it finds it. -/
theorem effect_microOp_underHost_self {s : State} {i : Instr} (h : s.phase.microOp = some i) :
    (effect i s).underHost s.ports s.script = effect i s := by
  rw [← effect_underHost s s.ports s.script h, underHost_self]

/-- A host with no script that asks for nothing asks for nothing next. -/
theorem hostNext_of_quiet {s : State} (hreq : s.ports.req = .none) (hscript : s.script = []) : s.hostNext = s := by
  have hports : { s.ports with req := .none } = s.ports := by rw [← hreq]
  rw [hostNext_nil s hscript, hports]

/-! ### The statements -/

/-- Settles O6: the equation of a step that takes a command. -/
theorem stepRunsThePresentedCommand : Obligations.StepRunsThePresentedCommand :=
  fun s _ i hreq hready hd => ⟨effect i s, exec_eq_effect i s, step_command hreq hready hd⟩

/-- Settles O7: the two equations of a micro-step. -/
theorem stepRunsThePhasesMicroOp : Obligations.StepRunsThePhasesMicroOp := by
  intro s i hd
  have hm := (microOp_iff s.phase i).1 hd
  exact ⟨fun hreq => ⟨effect i s, exec_eq_effect i s, step_micro_quiet hreq hm⟩,
    fun _ hreq => ⟨effect i s, exec_eq_effect i s, step_micro_held hreq hm⟩⟩

/-- Settles O8: the equation of an idle step, and the host's move with and without a script. -/
theorem waitingStepMovesOnlyTheHost : Obligations.WaitingStepMovesOnlyTheHost := by
  intro s hreq hready
  have hstep := step_idle hreq hready
  exact ⟨fun p rest hscript => by rw [hstep, hostNext_cons s p rest hscript],
    fun hscript => by rw [hstep, hostNext_of_quiet hreq hscript]⟩

/-- Settles O9: both steps run the micro-operation of the phase, which does not see the host's side. -/
theorem busyStepHoldsTheCommand : Obligations.BusyStepHoldsTheCommand := by
  intro s w hreq hbusy
  obtain ⟨i, hm⟩ := microOp_of_busy s.phase hbusy
  have hquiet : step (s.underHost { s.ports with req := .none } s.script) = _ := step_micro_quiet rfl hm
  refine ⟨_, hquiet, ?_⟩
  change step s = .next (State.underHost _ s.ports s.script)
  rw [hostNext_eq_underHost, effect_underHost _ _ _ hm, underHost_underHost, underHost_underHost,
    effect_microOp_underHost_self hm, step_micro_held hreq hm]

/-- Settles O10: a command's meaning is taken by `accept`, which does nothing in a busy phase. -/
theorem commandsHaveNoEffectWhileBusy : Obligations.CommandsHaveNoEffectWhileBusy :=
  fun _ hbusy => ⟨fun ivp ivlen klen => accept_busy (constructEffect ivp ivlen klen) hbusy,
    accept_busy startEffect hbusy, fun n => accept_busy (blockEffect n) hbusy⟩

/-- Settles O28: by the kinds of step. -/
theorem everyStepGoesOn : Obligations.EveryStepGoesOn := step_eq_next

end Sys2Proof.Machine
end

section
/-! What a step makes of the engine, said once. `Taken` lists what the acceptance of a command word can be, by the bits
of the word and the phase; a micro-step is one record of the next cipher state, count and phase; and `EngineMove` puts
them together with reset and waiting. Which host stands beside the engine after the step is left open. -/

namespace Sys2Proof.Machine

/-! ### The rows of the opcode map by the bits of a word -/

theorem constructWord_iff (w : Word) : w &&& 0xFFFE0000#32 = 0x10000000#32 ↔ w.toNat / 2 ^ 17 = 2048 :=
  decide_eq_true_iff.symm.trans (constructRow_holds w)

theorem startWord_iff (w : Word) : w = 0x20000000#32 ↔ w.toNat = 536870912 := by
  rw [← BitVec.toNat_inj]; rfl

theorem blockWord_iff (w : Word) : w &&& 0xFFFFFFE0#32 = 0x30000000#32 ↔ w.toNat / 2 ^ 5 = 25165824 :=
  decide_eq_true_iff.symm.trans (blockRow_holds w)

/-- No BLOCK word is in another row. -/
theorem other_rows_of_blockWord {w : Word} (h : w &&& 0xFFFFFFE0#32 = 0x30000000#32) :
    ¬ w &&& 0xFFFE0000#32 = 0x10000000#32 ∧ ¬ w = 0x20000000#32 := by
  rw [blockWord_iff] at h
  rw [constructWord_iff, startWord_iff]
  omega

theorem decodeCommand_blockWord {w : Word} (h : w &&& 0xFFFFFFE0#32 = 0x30000000#32) :
    decodeCommand w = .ok (.block (nField w)) := by
  rw [blockWord_iff] at h
  rcases decodeCommand_cases w with ⟨h', -⟩ | ⟨h', -⟩ | ⟨-, hd⟩ | ⟨-, -, h', -⟩
  · omega
  · omega
  · exact hd
  · exact absurd h h'

/-! ### CONSTRUCT in a ready engine -/

section Construct

variable {s : State} {ivp : Bool} {ivlen klen : Byte} (hready : s.phase.busy = false)
include hready

theorem effect_construct_badKey (hklen : klen.toNat ≠ 16) :
    effect (.construct ivp ivlen klen) s = s.constructStart.raise .invalidKeyLength :=
  (if_neg (by simp [hready])).trans (if_pos ((badKeyLength_iff klen).2 hklen))

theorem effect_construct_badIv (hklen : klen.toNat = 16) (hivp : ivp = true) (hivlen : ivlen.toNat ≠ 8) :
    effect (.construct ivp ivlen klen) s = s.constructStart.raise .invalidIVLength := by
  have hbad := (badIvLength_iff ivp ivlen).2 ⟨hivp, hivlen⟩
  refine (if_neg (by simp [hready])).trans ((if_neg ?_).trans (if_pos hbad))
  rw [badKeyLength_iff]
  exact not_not_intro hklen

theorem effect_construct_valid (hklen : klen.toNat = 16) (hiv : ivp = false ∨ ivlen.toNat = 8) :
    effect (.construct ivp ivlen klen) s = (s.constructStart.latch s.keyin ivp s.ivin).setPhase .keyed := by
  refine (if_neg (by simp [hready])).trans ((if_neg ?key).trans (if_neg ?iv))
  case key =>
    rw [badKeyLength_iff]
    exact not_not_intro hklen
  case iv =>
    rw [badIvLength_iff]
    rintro ⟨hivp, hivlen⟩
    exact hiv.elim (fun h => Bool.false_ne_true (h.symm.trans hivp)) hivlen

end Construct

/-- The claimed lengths of a CONSTRUCT: a wrong key length, else a wrong IV length, else neither (R47). -/
theorem lengths_cases (ivp : Bool) (ivlen klen : Byte) :
    klen.toNat ≠ 16 ∨ (klen.toNat = 16 ∧ ivp = true ∧ ivlen.toNat ≠ 8) ∨
      (klen.toNat = 16 ∧ (ivp = false ∨ ivlen.toNat = 8)) := by
  cases ivp with
  | false => simp only [Bool.false_eq_true, false_and, and_false, false_or, true_or, and_true]; omega
  | true => simp only [true_and, Bool.true_eq_false, false_or]; omega

/-! ### The acceptance of a command word -/

/-- `Taken s w e`: a ready engine `s` that takes the command word `w` is then the engine `e` (R46, R47, R48, R67,
R76). -/
inductive Taken (s : State) (w : Word) : State → Prop
  | badKey (hrow : w &&& 0xFFFE0000#32 = 0x10000000#32) (hklen : (klenField w).toNat ≠ 16) :
      Taken s w (s.constructStart.raise .invalidKeyLength)
  | badIv (hrow : w &&& 0xFFFE0000#32 = 0x10000000#32) (hivp : ivpField w = true)
      (hivlen : (ivlenField w).toNat ≠ 8) : Taken s w (s.constructStart.raise .invalidIVLength)
  | construct (hvalid : validConstruct w) :
      Taken s w ((s.constructStart.latch s.keyin (ivpField w) s.ivin).setPhase .keyed)
  | start (hword : w = 0x20000000#32) (hphase : s.phase = .keyed ∨ s.phase = .stream) :
      Taken s w (s.clearOutput.setPhase .sExpand)
  | block (hrow : w &&& 0xFFFFFFE0#32 = 0x30000000#32) (hlo : 1 ≤ (nField w).toNat) (hhi : (nField w).toNat ≤ 16)
      (hphase : s.phase = .stream) : Taken s w (s.blockTaken s.din (nField w))
  | fault (hconstruct : ¬ w &&& 0xFFFE0000#32 = 0x10000000#32)
      (hstart : ¬ (w = 0x20000000#32 ∧ (s.phase = .keyed ∨ s.phase = .stream)))
      (hblock : ¬ (w &&& 0xFFFFFFE0#32 = 0x30000000#32 ∧ 1 ≤ (nField w).toNat ∧ (nField w).toNat ≤ 16 ∧
        s.phase = .stream)) : Taken s w (s.raise .protocolError)

/-- A ready engine takes the presented word. -/
theorem step_taken {s : State} {w : Word} (hreq : s.ports.req = .command w) (hready : s.phase.busy = false) :
    ∃ e, step s = .next e.hostNext ∧ Taken s w e := by
  by_cases hrow : w &&& 0xFFFE0000#32 = 0x10000000#32
  · have hstep := step_command hreq hready (decodeCommand_construct hrow)
    rcases lengths_cases (ivpField w) (ivlenField w) (klenField w) with hk | ⟨hk, hp, hv⟩ | ⟨hk, hv⟩
    · exact ⟨_, hstep, by rw [effect_construct_badKey hready hk]; exact .badKey hrow hk⟩
    · exact ⟨_, hstep, by rw [effect_construct_badIv hready hk hp hv]; exact .badIv hrow hp hv⟩
    · exact ⟨_, hstep, by rw [effect_construct_valid hready hk hv]; exact .construct ⟨hrow, hk, hv⟩⟩
  · by_cases hstart : w = 0x20000000#32 ∧ (s.phase = .keyed ∨ s.phase = .stream)
    · obtain ⟨rfl, hphase⟩ := hstart
      exact ⟨_, step_command hreq hready (i := .start) rfl,
        by rw [effect_start_ready hphase]; exact .start rfl hphase⟩
    · by_cases hblock : w &&& 0xFFFFFFE0#32 = 0x30000000#32 ∧ 1 ≤ (nField w).toNat ∧ (nField w).toNat ≤ 16 ∧
        s.phase = .stream
      · obtain ⟨hb, hlo, hhi, hphase⟩ := hblock
        exact ⟨_, step_command hreq hready (decodeCommand_blockWord hb),
          by rw [effect_block_stream hphase hlo hhi]; exact .block hb hlo hhi hphase⟩
      · have hstep : step s = andThen (engineStep s) (State.hostMove s.holdsCommand) := rfl
        rw [otherWordsAreProtocolErrors s w hreq hready hrow hstart hblock] at hstep
        have hheld : s.holdsCommand = false := by simp [State.holdsCommand, hreq, hready]
        exact ⟨s.raise .protocolError, by rw [hstep, hheld]; rfl, .fault hrow hstart hblock⟩

/-! ### A micro-step -/

/-- The cipher state after a micro-step (R49 to R53, R68). -/
def State.nextCipher (s : State) : CipherState :=
  match s.phase with
  | .sExpand => expandKey s.K
  | .sWarm | .sIvwarm | .bIter => iter s.cipher
  | .sRemix => remixCounters s.cipher
  | .sIvmix => mixIv s.IV s.cipher
  | .unkeyed | .keyed | .stream => s.cipher

/-- The warm-up counter after a micro-step: it wraps to 0 at the end of a warm-up (R49, R50, R52, R53). -/
def State.nextCnt (s : State) : BitVec 2 :=
  match s.phase with
  | .sExpand | .sIvmix => 0#2
  | .sWarm | .sIvwarm => s.cnt + 1#2
  | .unkeyed | .keyed | .sRemix | .stream | .bIter => s.cnt

/-- The phase after a micro-step (R55). -/
def State.nextPhase (s : State) : Phase :=
  match s.phase with
  | .sExpand => .sWarm
  | .sWarm => if s.cnt.toNat < 3 then .sWarm else .sRemix
  | .sRemix => if s.ivp then .sIvmix else .stream
  | .sIvmix => .sIvwarm
  | .sIvwarm => if s.cnt.toNat < 3 then .sIvwarm else .stream
  | .bIter => if s.last then .keyed else .stream
  | .unkeyed => .unkeyed
  | .keyed => .keyed
  | .stream => .stream

/-- A micro-step as one record: it writes the cipher state, the warm-up counter and the phase. -/
def State.microStep (s : State) : State := ((s.setCipher s.nextCipher).setCnt s.nextCnt).setPhase s.nextPhase

/-- The end of a warm-up, said by the number in `cnt`. -/
theorem cnt_lt_three_iff (n : BitVec 2) : n.toNat < 3 ↔ n ≠ 3#2 := by
  have hlt := n.isLt
  rw [ne_eq, ← BitVec.toNat_inj, BitVec.toNat_ofNat]
  omega

/-- A warm-up step in either warm-up phase, as one record. -/
theorem warmStep_eq (s : State) (done : Phase) : s.warmStep done =
    ((s.setCipher (iter s.cipher)).setCnt (s.cnt + 1#2)).setPhase (if s.cnt.toNat < 3 then s.phase else done) := by
  rcases warmStep_cases s done with ⟨hcnt, h⟩ | ⟨hcnt, h⟩
  · rw [h, if_neg (by simp [hcnt]), hcnt]; rfl
  · rw [h, if_pos ((cnt_lt_three_iff s.cnt).2 hcnt)]; rfl

/-- The micro-operation of a busy phase is the micro-step. -/
theorem effect_microOp_eq_microStep {s : State} {i : Instr} (hm : s.phase.microOp = some i) :
    effect i s = s.microStep := by
  cases hphase : s.phase <;> rw [hphase] at hm <;> cases hm <;>
    simp only [effect, State.microStep, State.nextCipher, State.nextCnt, State.nextPhase, hphase, warmStep_eq] <;> rfl

/-! ### The registers of an engine under another host, and after a micro-step -/

section Registers

variable (s : State) (p : Ports) (q : List Ports)

@[simp] theorem underHost_x : (s.underHost p q).x = s.x := rfl
@[simp] theorem underHost_c : (s.underHost p q).c = s.c := rfl
@[simp] theorem underHost_b : (s.underHost p q).b = s.b := rfl
@[simp] theorem underHost_K : (s.underHost p q).K = s.K := rfl
@[simp] theorem underHost_IV : (s.underHost p q).IV = s.IV := rfl
@[simp] theorem underHost_ivp : (s.underHost p q).ivp = s.ivp := rfl
@[simp] theorem underHost_cnt : (s.underHost p q).cnt = s.cnt := rfl
@[simp] theorem underHost_last : (s.underHost p q).last = s.last := rfl
@[simp] theorem underHost_ekey : (s.underHost p q).ekey = s.ekey := rfl
@[simp] theorem underHost_eiv : (s.underHost p q).eiv = s.eiv := rfl
@[simp] theorem underHost_eproto : (s.underHost p q).eproto = s.eproto := rfl
@[simp] theorem underHost_dout : (s.underHost p q).dout = s.dout := rfl
@[simp] theorem underHost_doutn : (s.underHost p q).doutn = s.doutn := rfl

@[simp] theorem microStep_cipher : s.microStep.cipher = s.nextCipher := rfl
@[simp] theorem microStep_cnt : s.microStep.cnt = s.nextCnt := rfl
@[simp] theorem microStep_phase : s.microStep.phase = s.nextPhase := rfl
@[simp] theorem microStep_K : s.microStep.K = s.K := rfl
@[simp] theorem microStep_IV : s.microStep.IV = s.IV := rfl
@[simp] theorem microStep_ivp : s.microStep.ivp = s.ivp := rfl
@[simp] theorem microStep_last : s.microStep.last = s.last := rfl
@[simp] theorem microStep_ekey : s.microStep.ekey = s.ekey := rfl
@[simp] theorem microStep_eiv : s.microStep.eiv = s.eiv := rfl
@[simp] theorem microStep_eproto : s.microStep.eproto = s.eproto := rfl
@[simp] theorem microStep_dout : s.microStep.dout = s.dout := rfl
@[simp] theorem microStep_doutn : s.microStep.doutn = s.doutn := rfl

end Registers

/-! ### A step of the engine -/

/-- `EngineMove s e`: a step of the engine `s` makes it the engine `e`. -/
inductive EngineMove (s : State) : State → Prop
  | reset (hreq : s.ports.req = .reset) : EngineMove s State.reset
  | idle (hreq : s.ports.req = .none) (hready : s.phase.busy = false) : EngineMove s s
  | taken {w : Word} {e : State} (hreq : s.ports.req = .command w) (hready : s.phase.busy = false)
      (htaken : Taken s w e) : EngineMove s e
  | micro (hreq : s.ports.req ≠ .reset) (hbusy : s.phase.busy = true) : EngineMove s s.microStep

/-- What a step is, up to the host's side. -/
theorem step_inversion {s t : State} (h : step s = .next t) : ∃ e p q, EngineMove s e ∧ t = e.underHost p q := by
  have hnext {e : State} (hmove : EngineMove s e) (hs : step s = .next e.hostNext) :
      ∃ e p q, EngineMove s e ∧ t = e.underHost p q :=
    ⟨e, _, _, hmove, (next_inj.1 (h.symm.trans hs)).trans (hostNext_eq_underHost e)⟩
  rcases step_cases s with ⟨hreq, -⟩ | ⟨hreq, hready, hs⟩ | ⟨w, _, hreq, hready, -, -⟩ |
    ⟨w, _, hreq, hready, -, -⟩ | ⟨i, hreq, hm, hs⟩
  · obtain ⟨p, q, hs⟩ := step_reset_underHost hreq
    exact ⟨_, p, q, .reset hreq, next_inj.1 (h.symm.trans hs)⟩
  · exact hnext (.idle hreq hready) hs
  · obtain ⟨e, hs, htaken⟩ := step_taken hreq hready
    exact hnext (.taken hreq hready htaken) hs
  · obtain ⟨e, hs, htaken⟩ := step_taken hreq hready
    exact hnext (.taken hreq hready htaken) hs
  · rw [effect_microOp_eq_microStep hm] at hs
    have hmove : EngineMove s s.microStep := .micro hreq (busy_of_microOp s.phase i hm)
    rcases hs with hs | hs
    · exact hnext hmove hs
    · exact ⟨_, _, _, hmove, (next_inj.1 (h.symm.trans hs)).trans (underHost_self _).symm⟩

end Sys2Proof.Machine
end

section
/-! Who writes which register (spec/10_state.md sections 1 to 4, 40_setup.md R55, 60_exceptions.md R73 to R83): each
statement goes through the moves of the engine, most of which do not write the register it speaks of. -/

namespace Sys2Proof.Machine

/-! ### The phase -/

/-- Settles O29: a micro-step has the next phase of its record, and an accepted word the phase of its case. -/
theorem phaseTransitions : Obligations.PhaseTransitions := by
  intro s t h
  obtain ⟨e, p, q, hmove, rfl⟩ := step_inversion h
  rw [underHost_phase]
  cases hmove with
  | reset hreq => simp [hreq, State.reset]
  | idle hreq hready => simp [hreq, hready]
  | micro hreq hbusy =>
    have hnot : ¬ s.phase.busy = false := by simp [hbusy]
    exact ⟨fun h => absurd h hreq, fun _ _ => rfl, fun _ h => absurd h hnot, fun _ _ h => absurd h hnot⟩
  | @taken w e hreq hready htaken =>
    simp only [hreq, hready, Request.command.injEq]
    refine ⟨nofun, nofun, nofun, ?_⟩
    rintro _ rfl -
    cases htaken with
    | badKey hrow hklen => rw [if_pos hrow, if_neg fun h => hklen h.1]; rfl
    | badIv hrow hivp hivlen =>
      have hlengths : ¬ (ivpField w = false ∨ (ivlenField w).toNat = 8) := by simp [hivp, hivlen]
      rw [if_pos hrow, if_neg fun h => hlengths h.2]; rfl
    | construct hvalid => rw [if_pos hvalid.1, if_pos hvalid.2]; rfl
    | start hword hphase =>
      have hrow : ¬ w &&& 0xFFFE0000#32 = 0x10000000#32 := by rw [hword]; decide
      rw [if_neg hrow, if_pos ⟨hword, hphase⟩]; rfl
    | block hrow hlo hhi hphase =>
      obtain ⟨hconstruct, hstart⟩ := other_rows_of_blockWord hrow
      rw [if_neg hconstruct, if_neg fun h => hstart h.1, if_pos ⟨hrow, hlo, hhi, hphase⟩]; rfl
    | fault hconstruct hstart hblock => rw [if_neg hconstruct, if_neg hstart]; exact (if_neg hblock).symm

/-- Settles O30: of what is accepted in `UNKEYED`, only a CONSTRUCT with legal lengths ends in another phase. -/
theorem unkeyedUntilValidConstruct : Obligations.UnkeyedUntilValidConstruct := by
  intro s t hunkeyed h hleft
  obtain ⟨e, p, q, hmove, rfl⟩ := step_inversion h
  rw [underHost_phase] at hleft ⊢
  cases hmove with
  | reset => exact absurd rfl hleft
  | idle => exact absurd hunkeyed hleft
  | micro _ hbusy => simp [hunkeyed] at hbusy
  | @taken w _ hreq _ htaken =>
    cases htaken with
    | badKey | badIv => exact absurd rfl hleft
    | construct hvalid => exact ⟨rfl, w, hreq, hvalid⟩
    | start _ hphase => simp [hunkeyed] at hphase
    | block _ _ _ hphase => simp [hunkeyed] at hphase
    | fault => exact absurd hunkeyed hleft

/-! ### The key, the cipher state and the output -/

/-- Settles O31: only the two moves that it names write `K`, `IV` or `ivp`. -/
theorem keyChangesOnlyByConstruct : Obligations.KeyChangesOnlyByConstruct := by
  intro s t h hchanged
  obtain ⟨e, p, q, hmove, rfl⟩ := step_inversion h
  cases hmove with
  | reset hreq => exact .inl hreq
  | idle | micro => simp at hchanged
  | @taken w _ hreq hready htaken =>
    cases htaken with
    | construct hvalid => exact .inr ⟨hready, rfl, w, hreq, hvalid⟩
    | badKey | badIv | start | block | fault => simp [State.constructStart, State.blockTaken] at hchanged

/-- Settles O32: no accepted word writes `x`, `c` or `b`. -/
theorem cipherStateChangesOnlyBusy : Obligations.CipherStateChangesOnlyBusy := by
  intro s t h hchanged
  obtain ⟨e, p, q, hmove, rfl⟩ := step_inversion h
  cases hmove with
  | reset hreq => exact .inl hreq
  | micro _ hbusy => exact .inr hbusy
  | idle => simp at hchanged
  | taken _ _ htaken => cases htaken <;> simp [State.constructStart, State.blockTaken] at hchanged

/-- Settles O33: CONSTRUCT and START clear the output, and a legal BLOCK writes it. -/
theorem outputChangesOnlyByCommands : Obligations.OutputChangesOnlyByCommands := by
  intro s t h hchanged
  obtain ⟨e, p, q, hmove, rfl⟩ := step_inversion h
  cases hmove with
  | reset hreq => exact .inl hreq
  | idle | micro => exact absurd ⟨rfl, rfl⟩ hchanged
  | @taken w _ hreq hready htaken =>
    cases htaken with
    | badKey hrow | badIv hrow =>
      exact .inr ⟨hready, w, _, hreq, decodeCommand_construct hrow, fun hout => absurd rfl hout⟩
    | construct hvalid =>
      exact .inr ⟨hready, w, _, hreq, decodeCommand_construct hvalid.1, fun hout => absurd rfl hout⟩
    | start hword => exact .inr ⟨hready, w, .start, hreq, by rw [hword]; rfl, fun hout => absurd rfl hout⟩
    | block hrow _ _ hphase =>
      exact .inr ⟨hready, w, _, hreq, decodeCommand_blockWord hrow, fun _ => ⟨hphase, rfl⟩⟩
    | fault => exact absurd ⟨rfl, rfl⟩ hchanged

/-! ### The flags -/

/-- Settles O34: outside reset and CONSTRUCT a flag is only raised. -/
theorem flagsClearedOnlyByConstructOrReset : Obligations.FlagsClearedOnlyByConstructOrReset := by
  intro s t h hfell
  obtain ⟨e, p, q, hmove, rfl⟩ := step_inversion h
  cases hmove with
  | reset hreq => exact .inl hreq
  | idle | micro => simp at hfell
  | @taken w _ hreq hready htaken =>
    cases htaken with
    | badKey hrow | badIv hrow => exact .inr ⟨hready, w, hreq, hrow⟩
    | construct hvalid => exact .inr ⟨hready, w, hreq, hvalid.1⟩
    | start | block | fault => simp [State.blockTaken] at hfell

/-- Settles O35: a flag rises only where a fault is raised, and raising one writes no other register. -/
theorem faultsLeaveNoTraceButTheFlag : Obligations.FaultsLeaveNoTraceButTheFlag := by
  intro s t h hrose
  obtain ⟨e, p, q, hmove, rfl⟩ := step_inversion h
  cases hmove with
  | reset => simp [State.reset] at hrose
  | idle | micro => simp at hrose
  | @taken w _ hreq hready htaken =>
    cases htaken with
    | badKey | badIv => simp [hreq, hready, State.constructStart]
    | fault => simp [hreq, hready]
    | construct | start | block => simp [State.constructStart, State.blockTaken] at hrose

end Sys2Proof.Machine
end

section
/-! The invariant of the engine's registers (`State.Inv`): the reset state meets it, and every move of the engine keeps
it. The host's side has no part in it. -/

namespace Sys2Proof.Machine

/-- Settles O36: every register is at its reset value. -/
theorem resetMeetsTheInvariant : Obligations.ResetMeetsTheInvariant where
  cnt_zero _ _ := rfl
  iv_present h := by simp [State.reset] at h
  count_range := by decide
  filler_zero j _ := Vec.get_fill 0#8 j
  one_length_fault := by simp [State.reset]
  failed_unkeyed _ := rfl
  last_short := nofun
  block_nonempty := nofun
  setup_clear _ := rfl
  stream_full := nofun

theorem State.Inv.underHost {s : State} (h : s.Inv) (p : Ports) (q : List Ports) : (s.underHost p q).Inv where
  cnt_zero := h.cnt_zero
  iv_present := h.iv_present
  count_range := h.count_range
  filler_zero := h.filler_zero
  one_length_fault := h.one_length_fault
  failed_unkeyed := h.failed_unkeyed
  last_short := h.last_short
  block_nonempty := h.block_nonempty
  setup_clear := h.setup_clear
  stream_full := h.stream_full

/-! ### What the invariant says of a phase -/

theorem State.Inv.cnt_of_ready {s : State} (h : s.Inv) (hready : s.phase.busy = false) : s.cnt = 0#2 :=
  h.cnt_zero (fun hp => by simp [hp] at hready) (fun hp => by simp [hp] at hready)

/-- With a key held, no length flag stands. -/
theorem State.Inv.no_length_fault {s : State} (h : s.Inv) (hkeyed : s.phase ≠ .unkeyed) :
    s.ekey = false ∧ s.eiv = false := by
  have hnot := mt h.failed_unkeyed hkeyed
  rwa [not_or, Bool.not_eq_true, Bool.not_eq_true] at hnot

/-! ### Engines that meet it -/

/-- With clear output, outside `B_ITER`, the output and last-block clauses hold of themselves. -/
theorem inv_of_clear {s : State} (hcnt : s.phase ≠ .sWarm → s.phase ≠ .sIvwarm → s.cnt = 0#2)
    (hdout : ∀ j, s.dout.get j = 0#8) (hdoutn : s.doutn = 0#5) (hone : ¬ (s.ekey = true ∧ s.eiv = true))
    (hfail : s.ekey = true ∨ s.eiv = true → s.phase = .unkeyed)
    (hiv : s.phase = .sIvmix ∨ s.phase = .sIvwarm → s.ivp = true) (hblock : s.phase ≠ .bIter) : s.Inv where
  cnt_zero := hcnt
  iv_present := hiv
  count_range := by rw [hdoutn]; decide
  filler_zero j _ := hdout j
  one_length_fault := hone
  failed_unkeyed := hfail
  last_short hp := absurd hp hblock
  block_nonempty hp := absurd hp hblock
  setup_clear _ := hdoutn
  stream_full _ := .inl hdoutn

/-- What the acceptance of a word makes of the engine meets the invariant. -/
theorem Taken.inv {s e : State} {w : Word} (h : Taken s w e) (hready : s.phase.busy = false) (hs : s.Inv) : e.Inv := by
  have hcnt := hs.cnt_of_ready hready
  cases h with
  | badKey | badIv =>
    exact inv_of_clear (fun _ _ => hcnt) (Vec.get_fill 0#8) rfl (by simp [State.constructStart]) (fun _ => rfl)
      (by simp) (by simp)
  | construct =>
    exact inv_of_clear (fun _ _ => hcnt) (Vec.get_fill 0#8) rfl (by simp [State.constructStart])
      (by simp [State.constructStart]) (by simp) (by simp)
  | start _ hphase =>
    obtain ⟨hekey, heiv⟩ := hs.no_length_fault (by rcases hphase with h | h <;> simp [h])
    exact inv_of_clear (fun _ _ => hcnt) (Vec.get_fill 0#8) rfl (by simp [hekey]) (by simp [hekey, heiv])
      (by simp) (by simp)
  | block _ hlo hhi hphase =>
    obtain ⟨hekey, heiv⟩ := hs.no_length_fault (by simp [hphase])
    exact {
      cnt_zero _ _ := hcnt
      iv_present := by simp [State.blockTaken]
      count_range := hhi
      filler_zero j hj := (blockOutput_get _ _ _ j).trans (if_neg (Nat.not_lt.2 hj))
      one_length_fault := by simp [State.blockTaken, hekey]
      failed_unkeyed := by simp [State.blockTaken, hekey, heiv]
      last_short _ := isShort_iff (nField w)
      block_nonempty _ := hlo
      setup_clear := by simp [State.blockTaken]
      stream_full := by simp [State.blockTaken] }
  | fault =>
    exact {
      cnt_zero _ _ := hcnt
      iv_present := hs.iv_present
      count_range := hs.count_range
      filler_zero := hs.filler_zero
      one_length_fault := by simpa using hs.one_length_fault
      failed_unkeyed := by simpa using hs.failed_unkeyed
      last_short := hs.last_short
      block_nonempty := hs.block_nonempty
      setup_clear := hs.setup_clear
      stream_full := hs.stream_full }

/-! ### Micro-steps keep it -/

/-- Outside a warm-up `cnt` is 0 after a micro-step: it was so before, or is cleared, or wraps. -/
theorem State.Inv.nextCnt_zero {s : State} (h : s.Inv) (hwarm : s.nextPhase ≠ .sWarm)
    (hivwarm : s.nextPhase ≠ .sIvwarm) : s.nextCnt = 0#2 := by
  cases hphase : s.phase with
  | sExpand | sIvmix => simp [State.nextCnt, hphase]
  | sWarm | sIvwarm =>
    have hcnt : s.cnt = 3#2 := by
      refine Decidable.byContradiction fun hcnt => ?_
      simp [State.nextPhase, hphase, (cnt_lt_three_iff s.cnt).2 hcnt] at hwarm hivwarm
    simp [State.nextCnt, hphase, hcnt]
  | unkeyed | keyed | sRemix | stream | bIter => simpa [State.nextCnt, hphase] using h.cnt_zero

/-- The IV phases follow REMIX with an IV present, or one another (R52, R53). -/
theorem State.Inv.nextPhase_iv_present {s : State} (h : s.Inv)
    (hiv : s.nextPhase = .sIvmix ∨ s.nextPhase = .sIvwarm) : s.ivp = true := by
  cases hphase : s.phase with
  | sRemix =>
    refine Decidable.byContradiction fun hp => ?_
    simp [State.nextPhase, hphase, hp] at hiv
  | sIvmix | sIvwarm => exact h.iv_present (by simp [hphase])
  | sWarm | bIter =>
    simp only [State.nextPhase, hphase] at hiv
    split at hiv <;> simp at hiv
  | unkeyed | keyed | sExpand | stream => simp [State.nextPhase, hphase] at hiv

/-- Only a BLOCK leads to `B_ITER`. -/
theorem nextPhase_ne_bIter {s : State} (hbusy : s.phase.busy = true) : s.nextPhase ≠ .bIter := by
  cases hphase : s.phase with
  | sExpand | sIvmix => simp [State.nextPhase, hphase]
  | sWarm | sRemix | sIvwarm | bIter => simp only [State.nextPhase, hphase]; split <;> simp
  | unkeyed | keyed | stream => simp [hphase] at hbusy

/-- The block advance ends ready: after a full block `doutn` is 16 (R68). -/
theorem State.Inv.microStep_block {s : State} (h : s.Inv) (hphase : s.phase = .bIter) : s.microStep.Inv := by
  obtain ⟨hekey, heiv⟩ := h.no_length_fault (by simp [hphase])
  have hnext : s.nextPhase = if s.last then .keyed else .stream := by simp [State.nextPhase, hphase]
  have hfull (hlast : s.last = false) : s.doutn = 16#5 := by
    have hshort := h.last_short hphase
    have hrange := h.count_range
    apply BitVec.eq_of_toNat_eq
    simp only [hlast, Bool.false_eq_true, false_iff] at hshort
    rw [BitVec.toNat_ofNat]
    omega
  have hbusy : s.phase.busy = true := by simp [hphase]
  exact {
    cnt_zero := h.nextCnt_zero
    iv_present := h.nextPhase_iv_present
    count_range := h.count_range
    filler_zero := h.filler_zero
    one_length_fault := h.one_length_fault
    failed_unkeyed := by simp [hekey, heiv]
    last_short hp := absurd hp (nextPhase_ne_bIter hbusy)
    block_nonempty hp := absurd hp (nextPhase_ne_bIter hbusy)
    setup_clear := by rw [microStep_phase, hnext]; split <;> simp
    stream_full := by cases hlast : s.last <;> simp [hnext, hlast, hfull] }

/-- A micro-step of setup leaves the output clear. -/
theorem State.Inv.microStep_setup {s : State} (h : s.Inv) (hbusy : s.phase.busy = true) (hphase : s.phase ≠ .bIter) :
    s.microStep.Inv := by
  obtain ⟨hekey, heiv⟩ := h.no_length_fault fun hp => by simp [hp] at hbusy
  have hsetup : s.phase = .unkeyed ∨ s.phase = .sExpand ∨ s.phase = .sWarm ∨ s.phase = .sRemix ∨
      s.phase = .sIvmix ∨ s.phase = .sIvwarm := by
    cases hp : s.phase with
    | keyed | stream => simp [hp] at hbusy
    | bIter => exact absurd hp hphase
    | unkeyed | sExpand | sWarm | sRemix | sIvmix | sIvwarm => simp
  have hclear : s.doutn = 0#5 := h.setup_clear hsetup
  have hzero (j : Fin 16) : s.dout.get j = 0#8 := h.filler_zero j (by simp [hclear])
  refine inv_of_clear h.nextCnt_zero hzero hclear h.one_length_fault (by simp [hekey, heiv]) h.nextPhase_iv_present
    (nextPhase_ne_bIter hbusy)

theorem State.Inv.microStep {s : State} (h : s.Inv) (hbusy : s.phase.busy = true) : s.microStep.Inv := by
  by_cases hphase : s.phase = .bIter
  · exact h.microStep_block hphase
  · exact h.microStep_setup hbusy hphase

/-- Settles O37: by the moves of the engine. -/
theorem stepKeepsTheInvariant : Obligations.StepKeepsTheInvariant := by
  intro s t hs h
  obtain ⟨e, p, q, hmove, rfl⟩ := step_inversion h
  refine State.Inv.underHost ?_ p q
  cases hmove with
  | reset => exact resetMeetsTheInvariant
  | idle => exact hs
  | taken _ hready htaken => exact htaken.inv hready hs
  | micro _ hbusy => exact hs.microStep hbusy

end Sys2Proof.Machine
end

section
/-! Busy periods end (spec/30_encoding.md R46, 70_reset_and_hazards.md R90, 60_exceptions.md R83). Each busy phase is at
most so many micro-steps from a ready one (`stepsLeft`), and every step of a busy engine, a reset too, takes at least
one off. -/

namespace Sys2Proof.Machine

/-! ### How far a busy engine is from a ready one -/

/-- A bound on the micro-steps until the engine is ready, by phase and `cnt` (R90). -/
def State.stepsLeft (s : State) : Nat :=
  match s.phase with
  | .sExpand => 11
  | .sWarm => 10 - s.cnt.toNat
  | .sRemix => 6
  | .sIvmix => 5
  | .sIvwarm => 4 - s.cnt.toNat
  | .bIter => 1
  | .unkeyed | .keyed | .stream => 0

theorem stepsLeft_le (s : State) : s.stepsLeft ≤ 11 := by
  unfold State.stepsLeft
  split <;> omega

theorem stepsLeft_pos {s : State} (hbusy : s.phase.busy = true) : 0 < s.stepsLeft := by
  have hcnt := s.cnt.isLt
  cases hphase : s.phase with
  | sExpand | sRemix | sIvmix | bIter => simp [State.stepsLeft, hphase]
  | sWarm | sIvwarm => simp only [State.stepsLeft, hphase]; omega
  | unkeyed | keyed | stream => simp [hphase] at hbusy

/-- A micro-step takes at least one off. -/
theorem stepsLeft_microStep {s : State} (hbusy : s.phase.busy = true) : s.microStep.stepsLeft < s.stepsLeft := by
  have hlt := s.cnt.isLt
  have hcount (hcnt : s.cnt.toNat < 3) : (s.cnt + 1#2).toNat = s.cnt.toNat + 1 := by
    rw [BitVec.toNat_add, BitVec.toNat_ofNat]
    omega
  cases hphase : s.phase with
  | sExpand | sIvmix => simp [State.stepsLeft, State.nextPhase, State.nextCnt, hphase]
  | sWarm | sIvwarm =>
    simp only [State.stepsLeft, microStep_phase, microStep_cnt, State.nextPhase, State.nextCnt, hphase]
    by_cases hcnt : s.cnt.toNat < 3
    · rw [if_pos hcnt, hcount hcnt]
      dsimp only
      omega
    · rw [if_neg hcnt]
      dsimp only
      omega
  | sRemix => cases hivp : s.ivp <;> simp [State.stepsLeft, State.nextPhase, hphase, hivp]
  | bIter => cases hlast : s.last <;> simp [State.stepsLeft, State.nextPhase, hphase, hlast]
  | unkeyed | keyed | stream => simp [hphase] at hbusy

theorem stepsLeft_step {s t : State} (hbusy : s.phase.busy = true) (h : step s = .next t) :
    t.stepsLeft < s.stepsLeft := by
  obtain ⟨e, p, q, hmove, rfl⟩ := step_inversion h
  change e.stepsLeft < s.stepsLeft
  cases hmove with
  | reset => exact stepsLeft_pos hbusy
  | micro => exact stepsLeft_microStep hbusy
  | idle _ hready | taken _ hready => simp [hready] at hbusy

/-! ### The host meanwhile -/

/-- A step of a busy engine leaves a host that does not disturb it as it is. -/
theorem host_of_busy_step {s t : State} (hbusy : s.phase.busy = true) (hhost : s.Undisturbed)
    (h : step s = .next t) : t.ports = s.ports ∧ t.script = s.script := by
  obtain ⟨i, hm⟩ := microOp_of_busy s.phase hbusy
  have hstep : step s = .next (effect i s) := by
    rcases hhost with ⟨w, hreq⟩ | ⟨hreq, hscript⟩
    · exact step_micro_held hreq hm
    · rw [step_micro_quiet hreq hm, hostNext_of_quiet (by rw [effect_ports, hreq]) (by rw [effect_script, hscript])]
  obtain rfl : t = effect i s := next_inj.1 (h.symm.trans hstep)
  exact ⟨effect_ports i s, effect_script i s⟩

/-- A run to a ready engine, within a bound on the steps that are left. -/
theorem run_to_ready (n : Nat) {s : State} (hn : s.stepsLeft ≤ n) :
    ∃ k, k ≤ n ∧ ∃ t, Host.Core.run core k s = .next t ∧ t.phase.busy = false ∧
      (∀ m, m < k → ∃ u, Host.Core.run core m s = .next u ∧ u.phase.busy = true) ∧
      (s.Undisturbed → t.ports = s.ports ∧ t.script = s.script) := by
  induction n generalizing s with
  | zero =>
    have hready : s.phase.busy = false :=
      Bool.eq_false_iff.2 fun hbusy => Nat.not_le_of_lt (stepsLeft_pos hbusy) hn
    exact ⟨0, Nat.le_refl 0, s, rfl, hready, fun m hm => absurd hm (Nat.not_lt_zero m), fun _ => ⟨rfl, rfl⟩⟩
  | succ n ih =>
    cases hphase : s.phase.busy with
    | false =>
      exact ⟨0, Nat.zero_le _, s, rfl, hphase, fun m hm => absurd hm (Nat.not_lt_zero m), fun _ => ⟨rfl, rfl⟩⟩
    | true =>
      obtain ⟨v, hstep⟩ := step_eq_next s
      have hless := stepsLeft_step hphase hstep
      obtain ⟨k, hk, t, hrun, hready, hbusy, hhost⟩ := ih (s := v) (by omega)
      refine ⟨k + 1, by omega, t, (run_succ hstep k).trans hrun, hready, fun m hm => ?busy, fun hu => ?host⟩
      case busy =>
        cases m with
        | zero => exact ⟨s, rfl, hphase⟩
        | succ m => rw [run_succ hstep]; exact hbusy m (by omega)
      case host =>
        obtain ⟨hports, hscript⟩ := host_of_busy_step hphase hu hstep
        have hv : v.Undisturbed := by unfold State.Undisturbed; rwa [hports, hscript]
        exact ⟨(hhost hv).1.trans hports, (hhost hv).2.trans hscript⟩

/-- Settles O38: no busy engine is more than 11 micro-steps from a ready one. -/
theorem busyPeriodsEnd : Obligations.BusyPeriodsEnd := fun s => run_to_ready 11 (stepsLeft_le s)

/-- A ready engine that takes a CONSTRUCT word with legal lengths holds the key of the port. -/
theorem step_validConstruct {s : State} {w : Word} (hreq : s.ports.req = .command w) (hready : s.phase.busy = false)
    (hvalid : validConstruct w) : ∃ t, step s = .next t ∧ t.phase = .keyed ∧ t.K = s.ports.keyin := by
  obtain ⟨hrow, hklen, hiv⟩ := hvalid
  have heffect := effect_construct_valid (ivp := ivpField w) (ivlen := ivlenField w) (klen := klenField w)
    hready hklen hiv
  refine ⟨_, step_command hreq hready (decodeCommand_construct hrow), ?_⟩
  rw [heffect, hostNext_phase, hostNext_K]
  exact ⟨rfl, rfl⟩

/-- Settles O39: the command is still on the ports when the busy period is over, and the next step takes it. -/
theorem oneConstructReachesKeyed : Obligations.OneConstructReachesKeyed := by
  intro s w hreq hvalid
  obtain ⟨k, hk, u, hrun, hready, -, hhost⟩ := busyPeriodsEnd s
  obtain ⟨hports, -⟩ := hhost (.inl ⟨w, hreq⟩)
  rw [← hports] at hreq ⊢
  obtain ⟨t, hstep, hkeyed, hkey⟩ := step_validConstruct hreq hready hvalid
  exact ⟨k + 1, by omega, t, (run_add hrun 1).trans (run_succ hstep 0), hkeyed, hkey⟩

end Sys2Proof.Machine
end

section
/-! `Transform` byte by byte (spec/20_memory.md R31, 44_transform.md R69, R70): the blocks of a buffer, the keystream
byte that each byte meets, and with it that a second transform takes the first one back. -/

namespace Sys2Proof.Machine

/-! ### Blocks -/

theorem cutBlocks_length (buf : List Byte) : (cutBlocks buf).length = (buf.length + 15) / 16 := by
  induction buf using block_induction with
  | nil => rfl
  | block buf hbuf ih =>
    have hpos := List.length_pos_iff.2 hbuf
    rw [cutBlocks_of_ne_nil hbuf, List.length_cons, ih, List.length_drop]
    omega

/-- Block `q` starts at byte `16q` (R31). -/
theorem cutBlocks_getElem? {buf : List Byte} {q : Nat} (h : 16 * q < buf.length) :
    (cutBlocks buf)[q]? = some ((buf.drop (16 * q)).take 16) := by
  induction q generalizing buf with
  | zero => rw [cutBlocks_of_ne_nil (List.ne_nil_of_length_pos h)]; rfl
  | succ q ih =>
    have hrest : 16 * q < (buf.drop 16).length := by rw [List.length_drop]; omega
    have hstart : 16 + 16 * q = 16 * (q + 1) := by omega
    rw [cutBlocks_of_ne_nil (List.ne_nil_of_length_pos (by omega)), List.getElem?_cons_succ, ih hrest, List.drop_drop,
      hstart]

/-- Settles O25: both by cutting off the first block. -/
theorem blocksOfABuffer : Obligations.BlocksOfABuffer :=
  fun buf => ⟨cutBlocks_length buf, fun _ h => cutBlocks_getElem? h⟩

/-! ### Bytes -/

/-- Byte `p` of the keystream that begins at a cipher state (R69). -/
def cipherByte (k : CipherState) (p : Nat) : Byte :=
  (keystream (iterate (p / 16) k).x).get ⟨p % 16, Nat.mod_lt _ (by decide)⟩

theorem keystreamByte_eq (K : Vec Byte 16) (iv : Option (Vec Byte 8)) (p : Nat) :
    keystreamByte K iv p = cipherByte (setup K iv) p := rfl

/-- The first block of the keystream is the one extracted at once. -/
theorem cipherByte_of_lt (k : CipherState) {p : Nat} (h : p < 16) :
    cipherByte k p = (keystream k.x).get ⟨p, h⟩ := by
  have hdiv : p / 16 = 0 := Nat.div_eq_of_lt h
  simp only [cipherByte, hdiv, Nat.mod_eq_of_lt h, iterate]

/-- The keystream after its first block is that of the next cipher state. -/
theorem cipherByte_add (k : CipherState) (p : Nat) : cipherByte k (p + 16) = cipherByte (iter k) p := by
  have hdiv : (p + 16) / 16 = p / 16 + 1 := by omega
  have hmod : (p + 16) % 16 = p % 16 := by omega
  simp only [cipherByte, hdiv, hmod, iterate]

theorem xorBlock_getElem? (blk : List Byte) (ks : Vec Byte 16) {p : Nat} (hp : p < blk.length) (h16 : p < 16) :
    (xorBlock blk ks)[p]? = some (blk[p] ^^^ ks.get ⟨p, h16⟩) := by
  have hks : p < ks.toList.length := by rw [ks.length_eq]; exact h16
  rw [xorBlock, List.getElem?_eq_getElem (by rw [List.length_zipWith]; omega), List.getElem_zipWith,
    Vec.toList_getElem ks p hks]

/-- Each byte of a buffer meets its byte of the keystream, block after block. -/
theorem transformBlocks_getElem? (k : CipherState) {buf : List Byte} {p : Nat} (h : p < buf.length) :
    (transformBlocks k (cutBlocks buf))[p]? = some (buf[p] ^^^ cipherByte k p) := by
  induction buf using block_induction generalizing k p with
  | nil => exact absurd h (Nat.not_lt_zero p)
  | block buf hbuf ih =>
    have hlen : (xorBlock (buf.take 16) (keystream k.x)).length = min 16 buf.length := by
      rw [xorBlock_length, List.length_take]; omega
    rw [cutBlocks_of_ne_nil hbuf, transformBlocks]
    by_cases hfirst : p < 16
    · have htake : p < (buf.take 16).length := by rw [List.length_take]; omega
      rw [List.getElem?_append_left (by omega), xorBlock_getElem? _ _ htake hfirst, List.getElem_take,
        cipherByte_of_lt k hfirst]
    · obtain ⟨r, rfl⟩ := Nat.exists_eq_add_of_le' (Nat.le_of_not_lt hfirst)
      have hrest : r < (buf.drop 16).length := by rw [List.length_drop]; omega
      have hskip : r + 16 - (xorBlock (buf.take 16) (keystream k.x)).length = r := by omega
      rw [List.getElem?_append_right (by omega), hskip, ih (iter k) hrest, List.getElem_drop, cipherByte_add]
      simp only [Nat.add_comm 16 r]

theorem transform_getElem? (K : Vec Byte 16) (iv : Option (Vec Byte 8)) {buf : List Byte} {p : Nat}
    (h : p < buf.length) : (transform K iv buf)[p]? = some (buf[p] ^^^ keystreamByte K iv p) :=
  transformBlocks_getElem? (setup K iv) h

/-- Settles O43: length, and byte by byte. -/
theorem transformIsXorWithKeystream : Obligations.TransformIsXorWithKeystream :=
  fun K iv buf => ⟨transform_length K iv buf, fun _ h => transform_getElem? K iv h⟩

/-- A transform under the same key and IV takes itself back: each byte meets the same keystream byte twice (R70 (a)). -/
theorem transform_transform (K : Vec Byte 16) (iv : Option (Vec Byte 8)) (buf : List Byte) :
    transform K iv (transform K iv buf) = buf := by
  have hlen := transform_length K iv buf
  apply List.ext_getElem?
  intro p
  by_cases hp : p < buf.length
  · have hp' : p < (transform K iv buf).length := by omega
    have hbyte : (transform K iv buf)[p] = buf[p] ^^^ keystreamByte K iv p :=
      (List.getElem?_eq_some_iff.1 (transform_getElem? K iv hp)).2
    rw [transform_getElem? K iv hp', hbyte, BitVec.xor_assoc, BitVec.xor_self, BitVec.xor_zero,
      List.getElem?_eq_getElem hp]
  · rw [List.getElem?_eq_none (by rw [transform_length]; omega), List.getElem?_eq_none (by omega)]

/-! ### What a host collects -/

/-- The held IV, as far as a setup reads it. -/
theorem heldIv_congr {s t : State} (hivp : s.ivp = t.ivp) (hiv : s.ivp = true → s.IV = t.IV) :
    s.heldIv = t.heldIv := by
  unfold State.heldIv
  rw [← hivp]
  split
  next hp => rw [hiv hp]
  next => rfl

/-- Settles O45: the engine ends the first transform in `KEYED` or `STREAM` with the same key and IV. -/
theorem transformTwiceIsTheInput : Obligations.TransformTwiceIsTheInput := by
  intro u v s buf h r
  obtain ⟨hout, hend, hsame⟩ := performAll_transformLines u h buf
  have hphase : r.1.phase = .keyed ∨ r.1.phase = .stream := by
    change r.1.phase = _ at hend
    rw [hend]
    split <;> simp
  have hkey : r.1.K = s.K := hsame.K
  have hheld : r.1.heldIv = s.heldIv := heldIv_congr hsame.ivp fun _ => hsame.IV
  calc (r.1.performAll v (transformLines r.2)).2
      = transform r.1.K r.1.heldIv r.2 := commandsComputeTransform v r.1 r.2 hphase
    _ = transform s.K s.heldIv (transform s.K s.heldIv buf) := by rw [hkey, hheld, ← hout]; rfl
    _ = buf := transform_transform s.K s.heldIv buf

/-- Settles O46: both collect `Transform` of the key, the held IV and the buffer. -/
theorem transformDependsOnKeyIvInputOnly : Obligations.TransformDependsOnKeyIvInputOnly := by
  intro u v s t buf hs ht hkey hivp hiv
  rw [commandsComputeTransform u s buf hs, commandsComputeTransform v t buf ht, hkey, heldIv_congr hivp hiv]

end Sys2Proof.Machine
end

section
/-! What cannot be seen (spec/10_state.md R22, R25, R26). Engines that agree in all that can still be read take the same
kind of step and agree after it (`State.Agree`), so they agree for ever and show the same; and the port bytes that a
command does not use reach no register. -/

namespace Sys2Proof.Machine

/-! ### Agreeing engines -/

/-- Agreeing engines show the host the same. -/
theorem State.Agree.view {s t : State} (h : s.Agree t) : s.view = t.view := by
  simp only [State.view, State.status, h.phase, h.ivp, h.ekey, h.eiv, h.eproto, h.dout, h.doutn]

/-- The host's side is no part of what agrees beyond it. -/
theorem State.Agree.underHost {s t : State} (h : s.Agree t) (p : Ports) (q : List Ports) :
    (s.underHost p q).Agree (t.underHost p q) :=
  { h with ports := rfl, script := rfl }

/-- Agreeing engines have one host, which moves on in the same way. -/
theorem State.Agree.hostNext {s t : State} (h : s.Agree t) : s.hostNext.Agree t.hostNext := by
  have hhost : s.hostNext.ports = t.hostNext.ports ∧ s.hostNext.script = t.hostNext.script := by
    cases hscript : s.script with
    | nil => rw [hostNext_nil s hscript, hostNext_nil t (h.script ▸ hscript), h.ports, h.script]; exact ⟨rfl, rfl⟩
    | cons p rest =>
      rw [hostNext_cons s p rest hscript, hostNext_cons t p rest (h.script ▸ hscript)]; exact ⟨rfl, rfl⟩
  rw [hostNext_eq_underHost s, hostNext_eq_underHost t, hhost.1, hhost.2]
  exact h.underHost _ _

theorem State.Agree.resetEngine {s t : State} (h : s.Agree t) : s.resetEngine.Agree t.resetEngine := by
  have hengine : s.resetEngine = t.resetEngine := by
    unfold State.resetEngine
    rw [h.ports, h.script]
  rw [hengine]
  exact ⟨rfl, rfl, rfl, rfl, rfl, rfl, rfl, rfl, rfl, fun _ => rfl, fun _ => rfl, fun _ _ _ => rfl, fun _ => rfl,
    fun _ => rfl⟩

/-- A ProtocolError sets one flag. -/
theorem State.Agree.protocolError {s t : State} (h : s.Agree t) :
    (s.raise .protocolError).Agree (t.raise .protocolError) :=
  { h with eproto := rfl }

/-! ### The same command taken by agreeing engines -/

/-- After a length fault the engine is unkeyed: none of the key, the IV and the cipher state can be read. -/
theorem State.Agree.lengthFault {s t : State} (h : s.Agree t) {q : Cause} (hq : q ≠ .protocolError) :
    (s.constructStart.raise q).Agree (t.constructStart.raise q) := by
  cases q with
  | protocolError => exact absurd rfl hq
  | invalidKeyLength | invalidIVLength =>
    exact { h with
      phase := rfl, ekey := rfl, eiv := rfl, eproto := rfl, dout := rfl, doutn := rfl
      key := by simp, iv := by simp, cipher := by simp, cnt := by simp, last := by simp }

theorem State.Agree.effect_construct {s t : State} (h : s.Agree t) (hready : s.phase.busy = false) (ivp : Bool)
    (ivlen klen : Byte) : (effect (.construct ivp ivlen klen) s).Agree (effect (.construct ivp ivlen klen) t) := by
  have hready' : t.phase.busy = false := h.phase ▸ hready
  rcases lengths_cases ivp ivlen klen with hk | ⟨hk, hp, hv⟩ | ⟨hk, hv⟩
  · rw [effect_construct_badKey hready hk, effect_construct_badKey hready' hk]
    exact h.lengthFault (by simp)
  · rw [effect_construct_badIv hready hk hp hv, effect_construct_badIv hready' hk hp hv]
    exact h.lengthFault (by simp)
  · rw [effect_construct_valid hready hk hv, effect_construct_valid hready' hk hv]
    exact { h with
      phase := rfl, ivp := rfl, ekey := rfl, eiv := rfl, eproto := rfl, dout := rfl, doutn := rfl
      key := fun _ => congrArg Ports.keyin h.ports
      iv := by simp +contextual [State.ivin, h.ports]
      cipher := by simp, cnt := by simp, last := by simp }

theorem State.Agree.effect_start {s t : State} (h : s.Agree t) (hready : s.phase.busy = false) :
    (effect .start s).Agree (effect .start t) := by
  rcases (ready_iff s.phase).1 hready with hphase | hphase
  · rw [effect_start_unkeyed hphase, effect_start_unkeyed (h.phase ▸ hphase)]
    exact h.protocolError
  · have hkeyed : s.phase ≠ .unkeyed := by rcases hphase with hp | hp <;> simp [hp]
    rw [effect_start_ready hphase, effect_start_ready (h.phase ▸ hphase)]
    exact { h with
      phase := rfl, dout := rfl, doutn := rfl
      key := fun _ => h.key hkeyed
      iv := by simpa using fun hp => h.iv (.inl ⟨hkeyed, hp⟩)
      cipher := by simp, cnt := by simp, last := by simp }

/-- A BLOCK that is not legal in the phase is a fault for its phase or for its count (R67). -/
theorem block_fault_of_not_legal {s : State} {n : BitVec 5}
    (h : ¬ (s.phase = .stream ∧ 1 ≤ n.toNat ∧ n.toNat ≤ 16)) : s.phase ≠ .stream ∨ n.toNat = 0 ∨ 16 < n.toNat := by
  by_cases hphase : s.phase = .stream
  · have hcount : ¬ (1 ≤ n.toNat ∧ n.toNat ≤ 16) := fun hc => h ⟨hphase, hc⟩
    exact .inr (by omega)
  · exact .inl hphase

/-- The same output written in an open stream, where the key, the IV and the cipher state can be read. -/
theorem State.Agree.blockOutput {s t : State} (h : s.Agree t) (hphase : s.phase = .stream) (d : Vec Byte 16)
    (n : BitVec 5) (f : Bool) :
    (((s.setOutput d n).setLast f).setPhase .bIter).Agree (((t.setOutput d n).setLast f).setPhase .bIter) :=
  { h with
    phase := rfl, doutn := rfl, dout := rfl
    key := fun _ => h.key (by simp [hphase])
    iv := by simpa using fun hp => h.iv (.inl ⟨by simp [hphase], hp⟩)
    cipher := fun _ _ _ => h.cipher (by simp [hphase]) (by simp [hphase]) (by simp [hphase])
    cnt := by simp
    last := fun _ => rfl }

theorem State.Agree.effect_block {s t : State} (h : s.Agree t) (hready : s.phase.busy = false) (n : BitVec 5) :
    (effect (.block n) s).Agree (effect (.block n) t) := by
  by_cases hlegal : s.phase = .stream ∧ 1 ≤ n.toNat ∧ n.toNat ≤ 16
  · obtain ⟨hphase, hlo, hhi⟩ := hlegal
    have hinput : s.din = t.din := congrArg Ports.din h.ports
    have hx : s.x = t.x := congrArg CipherState.x (h.cipher (by simp [hphase]) (by simp [hphase]) (by simp [hphase]))
    rw [effect_block_stream hphase hlo hhi, effect_block_stream (h.phase ▸ hphase) hlo hhi, hinput, hx]
    exact h.blockOutput hphase _ n _
  · have hfault := block_fault_of_not_legal hlegal
    rw [effect_block_fault hready hfault, effect_block_fault (h.phase ▸ hready) (h.phase ▸ hfault)]
    exact h.protocolError

/-! ### The same micro-step of agreeing engines -/

/-- IVMIX follows only where an IV is present (R51). -/
theorem ivp_of_nextPhase_sIvmix {s : State} (hbusy : s.phase.busy = true) (h : s.nextPhase = .sIvmix) :
    s.ivp = true := by
  cases hphase : s.phase with
  | sRemix =>
    refine Decidable.byContradiction fun hp => ?_
    simp [State.nextPhase, hphase, hp] at h
  | sExpand | sIvmix => simp [State.nextPhase, hphase] at h
  | sWarm | sIvwarm | bIter =>
    simp only [State.nextPhase, hphase] at h
    split at h <;> simp at h
  | unkeyed | keyed | stream => simp [hphase] at hbusy

theorem State.Agree.nextPhase {s t : State} (h : s.Agree t) : s.nextPhase = t.nextPhase := by
  have hphase' := h.phase
  cases hphase : s.phase <;> rw [hphase] at hphase' <;> simp only [State.nextPhase, hphase, ← hphase']
  case sWarm | sIvwarm => rw [h.cnt (by simp [hphase])]
  case sRemix => rw [h.ivp]
  case bIter => rw [h.last hphase]

section MicroStep

variable {s t : State} (h : s.Agree t) (hbusy : s.phase.busy = true)
include h hbusy

/-- A warm-up is begun with a fresh count, or goes on with the agreed one. -/
theorem State.Agree.nextCnt (hwarm : s.nextPhase = .sWarm ∨ s.nextPhase = .sIvwarm) : s.nextCnt = t.nextCnt := by
  have hphase' := h.phase
  cases hphase : s.phase <;> rw [hphase] at hphase' <;> simp only [State.nextCnt, hphase, ← hphase']
  case sWarm | sIvwarm => rw [h.cnt (by simp [hphase])]
  case unkeyed | keyed | stream => simp [hphase] at hbusy
  all_goals
    simp only [State.nextPhase, hphase] at hwarm
    split at hwarm <;> simp at hwarm

/-- EXPAND reads the key, the others the cipher state, and IVMIX the IV too. -/
theorem State.Agree.nextCipher : s.nextCipher = t.nextCipher := by
  have hphase' := h.phase
  cases hphase : s.phase <;> rw [hphase] at hphase' <;> simp only [State.nextCipher, hphase, ← hphase']
  case sExpand => rw [h.key (by simp [hphase])]
  case sIvmix => rw [h.iv (.inr hphase), h.cipher (by simp [hphase]) (by simp [hphase]) (by simp [hphase])]
  case unkeyed | keyed | stream => simp [hphase] at hbusy
  all_goals rw [h.cipher (by simp [hphase]) (by simp [hphase]) (by simp [hphase])]

theorem State.Agree.microStep : s.microStep.Agree t.microStep := by
  have hkeyed : s.phase ≠ .unkeyed := fun hp => by simp [hp] at hbusy
  exact { h with
    phase := h.nextPhase
    key := fun _ => h.key hkeyed
    iv := by
      rintro (⟨-, hp⟩ | hnext)
      · exact h.iv (.inl ⟨hkeyed, hp⟩)
      · exact h.iv (.inl ⟨hkeyed, ivp_of_nextPhase_sIvmix hbusy hnext⟩)
    cipher := fun _ _ _ => h.nextCipher hbusy
    cnt := h.nextCnt hbusy
    last := fun hnext => absurd hnext (nextPhase_ne_bIter hbusy) }

end MicroStep

/-! ### Steps and runs of agreeing engines -/

theorem State.Agree.step {s t : State} (h : s.Agree t) :
    ∃ s' t', Machine.step s = .next s' ∧ Machine.step t = .next t' ∧ s'.Agree t' := by
  cases hreq : s.ports.req with
  | reset => exact ⟨_, _, step_reset hreq, step_reset (h.ports ▸ hreq), h.resetEngine.hostNext⟩
  | none =>
    cases hbusy : s.phase.busy with
    | false => exact ⟨_, _, step_idle hreq hbusy, step_idle (h.ports ▸ hreq) (h.phase ▸ hbusy), h.hostNext⟩
    | true =>
      obtain ⟨i, hm⟩ := microOp_of_busy _ hbusy
      have hm' : t.phase.microOp = some i := h.phase ▸ hm
      refine ⟨_, _, step_micro_quiet hreq hm, step_micro_quiet (h.ports ▸ hreq) hm', State.Agree.hostNext ?_⟩
      rw [effect_microOp_eq_microStep hm, effect_microOp_eq_microStep hm']
      exact h.microStep hbusy
  | command w =>
    cases hbusy : s.phase.busy with
    | false =>
      cases hd : decodeCommand w with
      | error e =>
        exact ⟨_, _, step_reserved hreq hbusy hd, step_reserved (h.ports ▸ hreq) (h.phase ▸ hbusy) hd,
          h.protocolError.hostNext⟩
      | ok i =>
        refine ⟨_, _, step_command hreq hbusy hd, step_command (h.ports ▸ hreq) (h.phase ▸ hbusy) hd,
          State.Agree.hostNext ?_⟩
        rcases decodeCommand_cases w with ⟨-, hi⟩ | ⟨-, hi⟩ | ⟨-, hi⟩ | ⟨-, -, -, hi⟩ <;>
          rw [hd] at hi <;> cases hi
        · exact h.effect_construct hbusy _ _ _
        · exact h.effect_start hbusy
        · exact h.effect_block hbusy _
    | true =>
      obtain ⟨i, hm⟩ := microOp_of_busy _ hbusy
      have hm' : t.phase.microOp = some i := h.phase ▸ hm
      refine ⟨_, _, step_micro_held hreq hm, step_micro_held (h.ports ▸ hreq) hm', ?_⟩
      rw [effect_microOp_eq_microStep hm, effect_microOp_eq_microStep hm']
      exact h.microStep hbusy

/-- Settles O47: agreement is kept by every step, and agreeing engines show the same. -/
theorem unwrittenStateNeverShows : Obligations.UnwrittenStateNeverShows := by
  intro s t h n
  induction n generalizing s t with
  | zero => exact ⟨s, t, rfl, rfl, h, h.view⟩
  | succ n ih =>
    obtain ⟨s', t', hs, ht, h'⟩ := h.step
    rw [run_succ hs, run_succ ht]
    exact ih s' t' h'

/-! ### Port bytes that a command does not use -/

/-- The output of a block depends on the first `n` input bytes only (R67). -/
theorem blockOutput_congr {d d' : Vec Byte 16} (ks : Vec Byte 16) {n : Nat}
    (h : ∀ j : Fin 16, j.val < n → d.get j = d'.get j) : blockOutput d ks n = blockOutput d' ks n := by
  apply Vec.ext_get
  intro j
  rw [blockOutput_get, blockOutput_get]
  split
  next hj => rw [h j hj]
  next => rfl

/-- The engine with these input ports. -/
def State.withPorts (s : State) (p : Ports) : State := { s with ports := p }

/-- Between the ports `p` and `q` the instruction makes no difference to any register. -/
def SameRegisters (i : Instr) (s : State) (p q : Ports) : Prop :=
  ∃ t : State, exec i (s.withPorts p) = .next (t.withPorts p) ∧ exec i (s.withPorts q) = .next (t.withPorts q)

theorem sameRegisters_of_effect {i : Instr} {s t : State} {p q : Ports}
    (hp : effect i (s.withPorts p) = t.withPorts p) (hq : effect i (s.withPorts q) = t.withPorts q) :
    SameRegisters i s p q :=
  ⟨t, by rw [exec_eq_effect, hp], by rw [exec_eq_effect, hq]⟩

/-- BLOCK reads the input port below its count (R67). -/
theorem sameRegisters_block (s : State) (n : BitVec 5) (p q : Ports)
    (h : ∀ j : Fin 16, j.val < n.toNat → p.din.get j = q.din.get j) : SameRegisters (.block n) s p q := by
  cases hready : s.phase.busy with
  | true => exact sameRegisters_of_effect (t := s) (if_pos hready) (if_pos hready)
  | false =>
    by_cases hlegal : s.phase = .stream ∧ 1 ≤ n.toNat ∧ n.toNat ≤ 16
    · obtain ⟨hphase, hlo, hhi⟩ := hlegal
      refine sameRegisters_of_effect (t := s.blockTaken p.din n) (effect_block_stream hphase hlo hhi) ?_
      rw [State.blockTaken, blockOutput_congr (keystream s.x) h]
      exact effect_block_stream hphase hlo hhi
    · have hfault := block_fault_of_not_legal hlegal
      exact sameRegisters_of_effect (t := s.raise .protocolError) (effect_block_fault hready hfault)
        (effect_block_fault hready hfault)

/-- CONSTRUCT reads the key port when the lengths are legal, and the IV port when an IV is then present (R47). -/
theorem sameRegisters_construct (s : State) (ivp : Bool) (ivlen klen : Byte) (p q : Ports)
    (h : klen.toNat = 16 ∧ (ivp = false ∨ ivlen.toNat = 8) → p.keyin = q.keyin ∧ (ivp = true → p.ivin = q.ivin)) :
    SameRegisters (.construct ivp ivlen klen) s p q := by
  cases hready : s.phase.busy with
  | true => exact sameRegisters_of_effect (t := s) (if_pos hready) (if_pos hready)
  | false =>
    rcases lengths_cases ivp ivlen klen with hk | ⟨hk, hp, hv⟩ | ⟨hk, hv⟩
    · exact sameRegisters_of_effect (t := s.constructStart.raise .invalidKeyLength)
        (effect_construct_badKey hready hk) (effect_construct_badKey hready hk)
    · exact sameRegisters_of_effect (t := s.constructStart.raise .invalidIVLength)
        (effect_construct_badIv hready hk hp hv) (effect_construct_badIv hready hk hp hv)
    · obtain ⟨hkey, hiv⟩ := h ⟨hk, hv⟩
      have hlatch : s.constructStart.latch p.keyin ivp p.ivin = s.constructStart.latch q.keyin ivp q.ivin := by
        cases ivp with
        | false => rw [hkey]; rfl
        | true => rw [hkey, hiv rfl]
      refine sameRegisters_of_effect (t := (s.constructStart.latch p.keyin ivp p.ivin).setPhase .keyed)
        (effect_construct_valid hready hk hv) ?_
      rw [hlatch]
      exact effect_construct_valid hready hk hv

/-- START reads no data port (R48). -/
theorem sameRegisters_start (s : State) (p q : Ports) : SameRegisters .start s p q := by
  cases hready : s.phase.busy with
  | true => exact sameRegisters_of_effect (t := s) (if_pos hready) (if_pos hready)
  | false =>
    rcases (ready_iff s.phase).1 hready with hphase | hphase
    · exact sameRegisters_of_effect (t := s.raise .protocolError) (effect_start_unkeyed hphase)
        (effect_start_unkeyed hphase)
    · exact sameRegisters_of_effect (t := s.clearOutput.setPhase .sExpand) (effect_start_ready hphase)
        (effect_start_ready hphase)

/-- Without an IV the claimed IV length is not looked at (R75). -/
theorem constructEffect_ivlen_unused (s : State) (ivlen ivlen' klen : Byte) :
    constructEffect false ivlen klen s = constructEffect false ivlen' klen s := rfl

/-- Settles O48: command by command. -/
theorem unusedPortBytesHaveNoEffect : Obligations.UnusedPortBytesHaveNoEffect := by
  refine ⟨sameRegisters_block, sameRegisters_construct, sameRegisters_start, fun s ivlen ivlen' klen => ?_⟩
  rw [exec_eq_effect, exec_eq_effect, effect, effect, constructEffect_ivlen_unused s ivlen ivlen' klen]

end Sys2Proof.Machine
end
